-- ==== Sys2Proof/Word.lean ====
section
/-!
DEFINITION. The word type of the bus, the numbers that name agents, pools, queues, groups, frames and
entries, and the fixed-size tables that hold one record for each of them.
-/

namespace Sys2Proof

/-- A word of either 32-bit bus. -/
abbrev Word := BitVec 32

/-- A byte of frame memory. -/
abbrev Byte := BitVec 8

/-- An agent number, 0 to 7. -/
abbrev AgentId := Fin 8

/-- A pool number, 0 to 3. -/
abbrev PoolId := Fin 4

/-- A queue number, 0 to 31. -/
abbrev QueueId := Fin 32

/-- A group number, 0 to 7. -/
abbrev GroupId := Fin 8

/-- A frame index, 0 to 1023. -/
abbrev FrameIdx := Fin 1024

/-- An entry number, 0 to 2047. -/
abbrev EntryId := Fin 2048

/-- A table of `n` records, one for each number below `n`. -/
structure Table (α : Type) (n : Nat) where
  /-- The records in the order of their numbers. -/
  cells : Vector α n
  deriving DecidableEq, Repr

namespace Table

/-- The record of number `i`. -/
def get {α : Type} {n : Nat} (t : Table α n) (i : Fin n) : α := t.cells[i.val]'i.isLt

/-- The table with the record of number `i` replaced. -/
def set {α : Type} {n : Nat} (t : Table α n) (i : Fin n) (x : α) : Table α n :=
  ⟨t.cells.set i.val x i.isLt⟩

/-- The table that holds `x` at every number. -/
def fill {α : Type} {n : Nat} (x : α) : Table α n := ⟨Vector.replicate n x⟩

/-- The table with `f` applied to every record. -/
def map {α β : Type} {n : Nat} (f : α → β) (t : Table α n) : Table β n := ⟨t.cells.map f⟩

end Table

end Sys2Proof
end

