-- ==== Sys2Proof/Config.lean ====
section
/-!
DEFINITION. The fixed sizes of the PX416 (00_scope.md, "Numbers at a Glance") and the one value the
spec leaves open.
-/

namespace Sys2Proof.Config

/-- Bytes of frame memory. -/
def memoryBytes : Nat := 131072

/-- The greatest number of frames a layout may have. -/
def maxFrames : Nat := 1024

/-- Records a notice list or the supervisor event list holds at most (R136, R142). -/
def listCapacity : Nat := 16

/-- The discard count stays here once it is reached (R32). -/
def maxDiscards : Nat := 65535

/-- The prescaler after power-on reset (R79). -/
def resetPrescaler : Nat := 1000

/-- The greatest value of the prescaler (R79). -/
def maxPrescaler : Nat := 65536

/-- FREE VALUE. RESTART leaves the frame whose clear it abandons "part cleared or not at all" (R17):
`scrubbed n k` says whether byte `k` of that frame was already cleared, at the `n`th value drawn.
It has no body: nothing can be proved of it. DESIGN CHOICE (log entry 4), safe. -/
opaque scrubbed : Nat → Nat → Bool

end Sys2Proof.Config
end

