-- ==== Sys2Proof/Syntax.lean ====
section
/-!
DEFINITION. The commands of the PX416: one constructor of `Instr` for each row of
spec/opcode_table.json. An access carries the page it arrives through and the word it writes.
-/

namespace Sys2Proof

/-- The two slave bus ports. -/
inductive Port where
  | a
  | b
  deriving DecidableEq, Repr

/-- Who wrote a queue command: an agent through its page, or the control page. It is also what a
queue's pending requester names (R96). -/
inductive Requester where
  | agent (a : AgentId)
  | control
  deriving DecidableEq, Repr

/-- The two words of a queue's configuration or status (R41, R42). -/
inductive Half where
  | first
  | second
  deriving DecidableEq, Repr

/-- The commands. -/
inductive Instr where
  /-- ALLOC (R12): agent `a` reads ALLOC `p`. -/
  | alloc (a : AgentId) (p : PoolId)
  /-- RECEIVE (R64): agent `a` reads RECEIVE `q`. -/
  | receive (a : AgentId) (q : QueueId)
  /-- RECEIVE_ANY (R68): agent `a` reads RECEIVE-ANY. -/
  | receiveAny (a : AgentId)
  /-- POST (R48): agent `a` writes `h` to POST. -/
  | post (a : AgentId) (h : Word)
  /-- POST_TO_GROUP (R57): agent `a` writes `h` to POST. -/
  | postToGroup (a : AgentId) (h : Word)
  /-- REPLY (R59): agent `a` writes `h` to REPLY. -/
  | reply (a : AgentId) (h : Word)
  /-- FREE (R14): agent `a` writes `h` to FREE. -/
  | free (a : AgentId) (h : Word)
  /-- COMPLETE (R71): agent `a` writes `h` to COMPLETE. -/
  | complete (a : AgentId) (h : Word)
  /-- TAKE (R72): agent `a` writes `h` to TAKE. -/
  | take (a : AgentId) (h : Word)
  /-- RELEASE (R73): agent `a` writes `h` to RELEASE. -/
  | release (a : AgentId) (h : Word)
  /-- BIND_WRITE (R127): agent `a` writes `h` to BIND. -/
  | bindWrite (a : AgentId) (h : Word)
  /-- BIND_READ (R128): agent `a` reads BIND. -/
  | bindRead (a : AgentId)
  /-- ATTACH (R113): agent `a` writes ATTACH to COMMAND. -/
  | attach (a : AgentId)
  /-- DETACH (R116): agent `a` writes DETACH to COMMAND. -/
  | detach (a : AgentId)
  /-- OPEN (R37): OPEN `q` from the page `r`. -/
  | openQueue (r : Requester) (q : QueueId)
  /-- PAUSE (R38): PAUSE `q` from the page `r`. -/
  | pause (r : Requester) (q : QueueId)
  /-- RESUME (R38): RESUME `q` from the page `r`. -/
  | resume (r : Requester) (q : QueueId)
  /-- DRAIN (R97): DRAIN `q` from the page `r`. -/
  | drain (r : Requester) (q : QueueId)
  /-- FLUSH (R101): FLUSH `q` from the page `r`. -/
  | flush (r : Requester) (q : QueueId)
  /-- UNKNOWN_AGENT_COMMAND (R112): agent `a` writes a word with the command code `code` to COMMAND. -/
  | unknownAgentCommand (a : AgentId) (code : Byte)
  /-- NOTICE (R139): agent `a` reads NOTICE. -/
  | notice (a : AgentId)
  /-- STAGING_DESTINATION (R46): agent `a` writes Staging Destination. -/
  | stagingDestination (a : AgentId) (w : Word)
  /-- STAGING_ATTRIBUTES (R46): agent `a` writes Staging Attributes. -/
  | stagingAttributes (a : AgentId) (w : Word)
  /-- STAGING_LENGTH (R46): agent `a` writes Staging Length. -/
  | stagingLength (a : AgentId) (w : Word)
  /-- INTERRUPT_ENABLE (R144): agent `a` writes Interrupt Enable. -/
  | interruptEnable (a : AgentId) (w : Word)
  /-- APERTURE_READ (R131): agent `a` reads word `m` of the aperture with the byte enables `lanes`. -/
  | apertureRead (a : AgentId) (m : BitVec 9) (lanes : BitVec 4)
  /-- APERTURE_WRITE (R131): agent `a` writes `w` to word `m` of the aperture with the byte enables
  `lanes`. -/
  | apertureWrite (a : AgentId) (m : BitVec 9) (lanes : BitVec 4) (w : Word)
  /-- FORMAT (R155), from the control page. -/
  | format
  /-- RESTART (R159), from the control page. -/
  | restart
  /-- DISABLE (R39), from the control page. -/
  | disable (q : QueueId)
  /-- RETIRE (R117), from the control page. -/
  | retire (a : AgentId)
  /-- CLEAR_DISCARD (R32), from the control page. -/
  | clearDiscard (q : QueueId)
  /-- UNKNOWN_CONTROL_COMMAND (R152): Control Command is written with a word that names no command,
  or whose operand is out of range. -/
  | unknownControlCommand (w : Word)
  /-- SUPERVISOR_EVENT (R143): Supervisor Event is read. -/
  | supervisorEvent
  /-- POOL_DEFINITION (R154): Pool Definition `p` is written. -/
  | poolDefinition (p : PoolId) (w : Word)
  /-- QUEUE_CONFIGURATION (R41): a word of Queue Configuration `q` is written. -/
  | queueConfiguration (q : QueueId) (half : Half) (w : Word)
  /-- AGENT_CONFIGURATION (R110): Agent Configuration `a` is written. -/
  | agentConfiguration (a : AgentId) (w : Word)
  /-- GROUP_MEMBER_SET (R56): Group Member Set `g` is written. -/
  | groupMemberSet (g : GroupId) (w : Word)
  /-- DEAD_LETTER_SELECTION (R92): Dead-Letter Selection is written. -/
  | deadLetterSelection (w : Word)
  /-- TIMEBASE_PRESCALER (R80): Timebase Prescaler is written. -/
  | timebasePrescaler (w : Word)
  /-- SUPERVISOR_INTERRUPT_ENABLE (R146): Supervisor Interrupt Enable is written. -/
  | supervisorInterruptEnable (w : Word)
  /-- IGNORED_WRITE (R162): a write to a place that ignores writes: word `offset` of `page`. -/
  | ignoredWrite (port : Port) (page : BitVec 4) (offset : BitVec 10) (w : Word)
  /-- PORST_ASSERT (R150). -/
  | porstAssert
  /-- PORST_RELEASE (R150). -/
  | porstRelease
  /-- INITIALISATION_END (R150). -/
  | initialisationEnd
  /-- PORT_RESET_ASSERT (R118): RSTA# or RSTB# is asserted. -/
  | portResetAssert (port : Port)
  /-- PORT_RESET_RELEASE (R118): RSTA# or RSTB# is released. -/
  | portResetRelease (port : Port)
  /-- TICK (R79): the divider completes a tick. -/
  | tick
  /-- CLAIM_EXPIRY (R85): the next expiry handed over is taken. -/
  | claimExpiry
  /-- FORMAT_BUILD_STEP (R156): the build enters the next frame. -/
  | formatBuildStep
  /-- FORMAT_COMPLETION (R158): the build ends. -/
  | formatCompletion
  /-- SCRUB_COMPLETION (R17): the scrub unit finishes the front frame. -/
  | scrubCompletion
  /-- FLUSH_STEP (R102): one step of the flush of `q`. -/
  | flushStep (q : QueueId)
  /-- RETIRE_CLAIM_STEP (R120): one claim step of the retire of `a`. -/
  | retireClaimStep (a : AgentId)
  /-- RETIRE_FREE_STEP (R121): one free step of the retire of `a`, or its end. -/
  | retireFreeStep (a : AgentId)
  deriving DecidableEq, Repr

end Sys2Proof
end

