-- ==== Sys2Proof/Decode.lean ====
section
/-!
DEFINITION. The bus decode: which register or port an access reaches (R162, R164, R166), and which
command it is. No row of spec/opcode_table.json gives bits, so no word of the table spells a command.
-/

namespace Sys2Proof

/-! ## Words of the command registers -/

/-- The command code of a COMMAND or Control Command word: bits 7 to 0 (R164, R166). -/
def commandCode (w : Word) : Byte := w.extractLsb' 0 8

/-- The port whose pages 0 to 3 are the agent's page (R162). -/
def agentPort (a : AgentId) : Port := if a.val < 4 then .a else .b

/-- The port a queue command arrives on: the control page is on Port A (R162). -/
def requesterPort : Requester → Port
  | .agent a => agentPort a
  | .control => .a

/-- The agent command of a code, with the queue number of bits 12 to 8 (R164). `none`: the code names
no agent command. -/
def agentCommand (a : AgentId) (code : Byte) (q : QueueId) : Option Instr :=
  match code.toNat with
  | 1 => some (.attach a)
  | 2 => some (.detach a)
  | 3 => some (.openQueue (.agent a) q)
  | 4 => some (.pause (.agent a) q)
  | 5 => some (.resume (.agent a) q)
  | 6 => some (.drain (.agent a) q)
  | 7 => some (.flush (.agent a) q)
  | _ => none

/-- The command a COMMAND word names. Bits 31 to 13 are ignored (R164). -/
def agentCommandOf (a : AgentId) (w : Word) : Instr :=
  (agentCommand a (commandCode w) (w.extractLsb' 8 5).toFin).getD
    (.unknownAgentCommand a (commandCode w))

/-- A queue command of the control page, when the operand names a queue (R152). -/
def onQueue (operand : Nat) (c : QueueId → Instr) : Option Instr :=
  if h : operand < 32 then some (c ⟨operand, h⟩) else none

/-- A control command without operand, when the operand is 0 (R152). -/
def withoutOperand (operand : Nat) (c : Instr) : Option Instr :=
  if operand = 0 then some c else none

/-- A control command that names an agent, when the operand does (R152). -/
def onAgent (operand : Nat) (c : AgentId → Instr) : Option Instr :=
  if h : operand < 8 then some (c ⟨operand, h⟩) else none

/-- The control command of a code and operand (R166). `none`: the operand is out of range, or the code
names no control command. -/
def controlCommand (code operand : Nat) : Option Instr :=
  match code with
  | 1 => withoutOperand operand .format
  | 2 => withoutOperand operand .restart
  | 3 => onQueue operand (.openQueue .control)
  | 4 => onQueue operand (.pause .control)
  | 5 => onQueue operand (.resume .control)
  | 6 => onQueue operand (.drain .control)
  | 7 => onQueue operand (.flush .control)
  | 8 => onQueue operand .disable
  | 9 => onAgent operand .retire
  | 10 => onQueue operand .clearDiscard
  | _ => none

/-- The operand of a Control Command word: bits 15 to 8 (R166). -/
def controlOperand (w : Word) : Byte := w.extractLsb' 8 8

/-- The command a Control Command word names, `none` where the write is answered BAD_COMMAND or
BAD_VALUE: bits 31 to 16 must be 0 (R152, R166). -/
def controlCommandOf (w : Word) : Option Instr :=
  if w.extractLsb' 16 16 = 0 then controlCommand (commandCode w).toNat (controlOperand w).toNat
  else none

/-- The code names a control command (R166). -/
def isControlCode (code : Byte) : Bool := 1 ≤ code.toNat && code.toNat ≤ 10

/-! ## Pages and offsets -/

/-- What stands at an offset of an agent page (R164). -/
inductive AgentPlace where
  | receive (q : QueueId)
  | receiveAny
  | alloc (p : PoolId)
  | notice
  | noticeDetail
  | post
  | reply
  | free
  | complete
  | take
  | release
  | bind
  | command
  | stagingDestination
  | stagingAttributes
  | stagingLength
  | deliveryHandle
  | deliveryAttributes
  | deliveryLength
  | lastResult
  | lastOperand
  | agentStatus
  | readySet
  | interruptEnable
  | controllerStatus
  | aperture (m : BitVec 9)
  | empty
  deriving DecidableEq, Repr

/-- What stands at an offset of the control page (R166). -/
inductive ControlPlace where
  | controllerStatus
  | controlCommand
  | controlResult
  | timebasePrescaler
  | timebaseCount
  | deadLetterSelection
  | supervisorEvent
  | supervisorEventDetail
  | supervisorInterruptEnable
  | poolDefinition (p : PoolId)
  | poolStatus (p : PoolId) (half : Half)
  | agentConfiguration (a : AgentId)
  | groupMemberSet (g : GroupId)
  | queueConfiguration (q : QueueId) (half : Half)
  | queueStatus (q : QueueId) (half : Half)
  | empty
  deriving DecidableEq, Repr

/-- What an access reaches: a place of an agent page, a place of the control page, or nothing (R162). -/
inductive Place where
  | agent (a : AgentId) (x : AgentPlace)
  | control (x : ControlPlace)
  | undecoded
  deriving DecidableEq, Repr

/-- The agent page map (R164). `offset` counts words: it is bits A11 to A2. -/
def agentPlace (offset : BitVec 10) : AgentPlace :=
  let k := 4 * offset.toNat
  if k ≤ 0x07C then .receive (Fin.ofNat 32 (k / 4))
  else if k = 0x080 then .receiveAny
  else if k ≤ 0x090 then .alloc (Fin.ofNat 4 ((k - 0x084) / 4))
  else if k = 0x094 then .notice
  else if k = 0x098 then .noticeDetail
  else if k = 0x0A0 then .post
  else if k = 0x0A4 then .reply
  else if k = 0x0A8 then .free
  else if k = 0x0AC then .complete
  else if k = 0x0B0 then .take
  else if k = 0x0B4 then .release
  else if k = 0x0B8 then .bind
  else if k = 0x0BC then .command
  else if k = 0x0C0 then .stagingDestination
  else if k = 0x0C4 then .stagingAttributes
  else if k = 0x0C8 then .stagingLength
  else if k = 0x0D0 then .deliveryHandle
  else if k = 0x0D4 then .deliveryAttributes
  else if k = 0x0D8 then .deliveryLength
  else if k = 0x0E0 then .lastResult
  else if k = 0x0E4 then .lastOperand
  else if k = 0x0E8 then .agentStatus
  else if k = 0x0EC then .readySet
  else if k = 0x0F0 then .interruptEnable
  else if k = 0x0F4 then .controllerStatus
  else if 0x800 ≤ k then .aperture (offset.extractLsb' 0 9)
  else .empty

/-- Which of a pair of words a byte offset names. -/
def halfOf (k : Nat) : Half := if k % 8 = 0 then .first else .second

/-- The control page map (R166). -/
def controlPlace (offset : BitVec 10) : ControlPlace :=
  let k := 4 * offset.toNat
  if k = 0x000 then .controllerStatus
  else if k = 0x004 then .controlCommand
  else if k = 0x008 then .controlResult
  else if k = 0x00C then .timebasePrescaler
  else if k = 0x010 then .timebaseCount
  else if k = 0x014 then .deadLetterSelection
  else if k = 0x018 then .supervisorEvent
  else if k = 0x01C then .supervisorEventDetail
  else if k = 0x020 then .supervisorInterruptEnable
  else if 0x040 ≤ k ∧ k ≤ 0x04C then .poolDefinition (Fin.ofNat 4 ((k - 0x040) / 4))
  else if 0x050 ≤ k ∧ k ≤ 0x05C then .poolStatus (Fin.ofNat 4 ((k - 0x050) / 4)) .first
  else if 0x060 ≤ k ∧ k ≤ 0x07C then .agentConfiguration (Fin.ofNat 8 ((k - 0x060) / 4))
  else if 0x080 ≤ k ∧ k ≤ 0x09C then .groupMemberSet (Fin.ofNat 8 ((k - 0x080) / 4))
  else if 0x0A0 ≤ k ∧ k ≤ 0x0AC then .poolStatus (Fin.ofNat 4 ((k - 0x0A0) / 4)) .second
  else if 0x100 ≤ k ∧ k ≤ 0x1FC then
    .queueConfiguration (Fin.ofNat 32 ((k - 0x100) / 8)) (halfOf k)
  else if 0x200 ≤ k ∧ k ≤ 0x2FC then .queueStatus (Fin.ofNat 32 ((k - 0x200) / 8)) (halfOf k)
  else .empty

/-- The page decode (R162): pages 0 to 3 are agent pages, page 8 of Port A is the control page, and no
other page is decoded. -/
def place (port : Port) (page : BitVec 4) (offset : BitVec 10) : Place :=
  match port with
  | .a =>
    if page.toNat < 4 then .agent (Fin.ofNat 8 page.toNat) (agentPlace offset)
    else if page.toNat = 8 then .control (controlPlace offset)
    else .undecoded
  | .b => if page.toNat < 4 then .agent (Fin.ofNat 8 (page.toNat + 4)) (agentPlace offset) else .undecoded

/-! ## Accesses -/

/-- What a post is staged for (R45). -/
inductive DestKind where
  | queue
  | group
  deriving DecidableEq, Repr

/-- The command that a write to an agent page is, `none` where the page ignores the write (R164). The
staged kind tells POST from POST_TO_GROUP (R48, R57). -/
def agentWrite (staged : DestKind) (a : AgentId) (x : AgentPlace) (lanes : BitVec 4) (w : Word) :
    Option Instr :=
  match x with
  | .post => some (match staged with | .queue => .post a w | .group => .postToGroup a w)
  | .reply => some (.reply a w)
  | .free => some (.free a w)
  | .complete => some (.complete a w)
  | .take => some (.take a w)
  | .release => some (.release a w)
  | .bind => some (.bindWrite a w)
  | .command => some (agentCommandOf a w)
  | .stagingDestination => some (.stagingDestination a w)
  | .stagingAttributes => some (.stagingAttributes a w)
  | .stagingLength => some (.stagingLength a w)
  | .interruptEnable => some (.interruptEnable a w)
  | .aperture m => some (.apertureWrite a m lanes w)
  | .receive _ | .receiveAny | .alloc _ | .notice | .noticeDetail | .deliveryHandle
  | .deliveryAttributes | .deliveryLength | .lastResult | .lastOperand | .agentStatus | .readySet
  | .controllerStatus | .empty => none

/-- The command that a write to the control page is, `none` where the page ignores the write (R166). -/
def controlWrite (x : ControlPlace) (w : Word) : Option Instr :=
  match x with
  | .controlCommand => some ((controlCommandOf w).getD (.unknownControlCommand w))
  | .timebasePrescaler => some (.timebasePrescaler w)
  | .deadLetterSelection => some (.deadLetterSelection w)
  | .supervisorInterruptEnable => some (.supervisorInterruptEnable w)
  | .poolDefinition p => some (.poolDefinition p w)
  | .agentConfiguration a => some (.agentConfiguration a w)
  | .groupMemberSet g => some (.groupMemberSet g w)
  | .queueConfiguration q half => some (.queueConfiguration q half w)
  | .controllerStatus | .controlResult | .timebaseCount | .supervisorEvent | .supervisorEventDetail
  | .poolStatus _ _ | .queueStatus _ _ | .empty => none

/-- The command that a write to a place is, `none` where it is ignored. -/
def writeCommand (staged : AgentId → DestKind) (x : Place) (lanes : BitVec 4) (w : Word) :
    Option Instr :=
  match x with
  | .agent a x => agentWrite (staged a) a x lanes w
  | .control x => controlWrite x w
  | .undecoded => none

/-- Whether a place ignores writes (R162, R164, R166). -/
def ignoresWrites (x : Place) : Bool := (writeCommand (fun _ => .queue) x 0 0).isNone

/-- The command that a read of a place is, `none` for a plain read, which changes nothing. -/
def readCommand (x : Place) (lanes : BitVec 4) : Option Instr :=
  match x with
  | .agent a (.receive q) => some (.receive a q)
  | .agent a .receiveAny => some (.receiveAny a)
  | .agent a (.alloc p) => some (.alloc a p)
  | .agent a .notice => some (.notice a)
  | .agent a .bind => some (.bindRead a)
  | .agent a (.aperture m) => some (.apertureRead a m lanes)
  | .control .supervisorEvent => some .supervisorEvent
  | .agent _ _ | .control _ | .undecoded => none

/-- One access of a bus: the port, address lines A15 to A2, the byte enables, and the word written, or
`none` for a read. -/
structure BusAccess where
  port : Port
  address : BitVec 14
  lanes : BitVec 4
  written : Option Word
  deriving DecidableEq, Repr

/-- The page of an access: A15 to A12 (R162). -/
def BusAccess.page (x : BusAccess) : BitVec 4 := x.address.extractLsb' 10 4

/-- The word offset of an access: A11 to A2 (R162). -/
def BusAccess.offset (x : BusAccess) : BitVec 10 := x.address.extractLsb' 0 10

/-- The place an access reaches. -/
def BusAccess.place (x : BusAccess) : Place := Sys2Proof.place x.port x.page x.offset

/-- The command an access is, given what each agent has staged; `none` for a read of a plain register,
which is no command. -/
def BusAccess.command (staged : AgentId → DestKind) (x : BusAccess) : Option Instr :=
  match x.written with
  | some w =>
    some ((writeCommand staged x.place x.lanes w).getD (.ignoredWrite x.port x.page x.offset w))
  | none => readCommand x.place x.lanes

/-- The command a word of the table spells: no row of spec/opcode_table.json gives bits, so none. -/
def decodeTableWord (_nbits _w : Nat) : Option Instr := none

end Sys2Proof
end

