-- ==== Sys2Proof/Machine/State.lean ====
section
/-!
DEFINITION. The state of the PX416 as plain data, its value after power-on reset, and the two ways a
command can stop. INVENTORY.md lists each field with the rule that names it.
-/

namespace Sys2Proof.Machine

/-- Why a command faults. -/
inductive Fault where
  /-- Raised by APERTURE_READ and APERTURE_WRITE when the word lies inside the bound frame but outside
  the 131072 bytes of frame memory. FORMAT admits no such layout (R2, R155), so no run from reset
  raises it: safe. -/
  | outsideFrameMemory
  deriving DecidableEq, Repr

/-- Why a command is refused. -/
inductive Refusal where
  /-- Raised by an arm of `exec` for a command without a meaning; safe. No arm raises it. -/
  | notModelled (mnemonic : String)
  /-- Raised by UNKNOWN_AGENT_COMMAND, UNKNOWN_CONTROL_COMMAND and IGNORED_WRITE when the operands
  spell no command of the row (`WellFormed` is false): there is no such access. Safe. -/
  | illFormed
  deriving DecidableEq, Repr

/-! ## Names of states, codes and kinds -/

/-- The controller states (R149). -/
inductive Controller where
  | init
  | config
  | formatting
  | running
  deriving DecidableEq, Repr

/-- The agent states (R108). -/
inductive AgentState where
  | offline
  | online
  | retiring
  deriving DecidableEq, Repr

/-- Why a retire began (R119). -/
inductive RetireCause where
  | detach
  | retire
  | portReset
  deriving DecidableEq, Repr

/-- The frame states (R4). -/
inductive FrameState where
  | free
  | held
  | posted
  | scrub
  deriving DecidableEq, Repr

/-- The queue states (R34). -/
inductive QueueState where
  | disabled
  | open
  | paused
  | draining
  | closed
  | flushing
  deriving DecidableEq, Repr

/-- Where an entry is (R22). -/
inductive EntryPlace where
  | free
  | queued
  | claimed
  deriving DecidableEq, Repr

/-- The class of an entry (R21). -/
inductive EntryClass where
  | urgent
  | normal
  deriving DecidableEq, Repr

/-- The result codes of an agent's last-result record (R165). -/
inductive ResultCode where
  | ok
  | empty
  | notRunning
  | agentOffline
  | retiring
  | badHandle
  | stale
  | notOwner
  | quota
  | claimLimit
  | noQueue
  | notConsumer
  | notPermitted
  | queueFull
  | queueClosed
  | queuePaused
  | flushing
  | noEntry
  | shared
  | noReplyQueue
  | length
  | badGroup
  | violation
  | badState
  | badCommand
  | notEnabled
  deriving DecidableEq, Repr

/-- The actions of an agent's last-result record (R165). -/
inductive Action where
  | none
  | alloc
  | receive
  | receiveAny
  | post
  | reply
  | free
  | complete
  | take
  | release
  | bind
  | aperture
  | command
  | attach
  | detach
  | open
  | pause
  | resume
  | drain
  | flush
  deriving DecidableEq, Repr

/-- The result codes of the control-result record (R153, R166). -/
inductive ControlCode where
  | ok
  | busy
  | wrongState
  | badValue
  | formatInvalid
  | badCommand
  deriving DecidableEq, Repr

/-- The subject of the control-result record (R153): none, a command code as written, or a register by
its byte offset on the control page. -/
inductive ControlSubject where
  | none
  | command (code : Byte)
  | register (offset : BitVec 10)
  deriving DecidableEq, Repr

/-- The notice kinds (R137). -/
inductive NoticeKind where
  | claimExpired
  | undelivered
  | queueClosed
  | flushDone
  deriving DecidableEq, Repr

/-- The outcome field of a notice (R137). -/
inductive NoticeOutcome where
  | none
  | deadLettered
  | dropped
  deriving DecidableEq, Repr

/-! ## Records -/

/-- A pool definition (R1). -/
structure Pool where
  /-- 0 to 5, for frames of 64 to 2048 bytes. -/
  sizeCode : Fin 6
  count : Nat
  scrub : Bool
  lowWater : Nat
  armed : Bool
  deriving DecidableEq, Repr

/-- A frame record (R3). Its index is its position in the frame table. -/
structure Frame where
  pool : PoolId
  state : FrameState
  generation : BitVec 5
  refs : Nat
  holder : Option AgentId
  length : Nat
  tag : BitVec 16
  source : AgentId
  reply : Option QueueId
  urgent : Bool
  deriving DecidableEq, Repr

/-- An entry record (R21). Its number is its position in the entry table. -/
structure Entry where
  place : EntryPlace
  frame : FrameIdx
  home : QueueId
  first : QueueId
  cls : EntryClass
  redeliveries : Nat
  claimant : Option AgentId
  deadline : Option (BitVec 16)
  deriving DecidableEq, Repr

/-- A queue record (R24) with the queue's two lists, front first (R25). -/
structure Queue where
  state : QueueState
  consumer : AgentId
  /-- Bit `a`: agent `a` may post or reply to the queue. -/
  permission : BitVec 8
  depth : Nat
  threshold : Nat
  timeout : BitVec 16
  limit : Nat
  urgent : List EntryId
  normal : List EntryId
  discards : Nat
  requester : Option Requester
  flushCount : Nat
  deriving DecidableEq, Repr

/-- A staging record (R45). -/
structure Staging where
  kind : DestKind
  number : BitVec 5
  tag : BitVec 16
  length : Nat
  urgent : Bool
  reply : Option QueueId
  deriving DecidableEq, Repr

/-- A valid delivery record (R67). -/
structure Delivery where
  handle : Word
  source : AgentId
  tag : BitVec 16
  length : Nat
  urgent : Bool
  reply : Option QueueId
  home : QueueId
  first : QueueId
  redeliveries : Nat
  deriving DecidableEq, Repr

/-- A last-result record (R165). -/
structure LastResult where
  code : ResultCode
  action : Action
  operand : Word
  deriving DecidableEq, Repr

/-- A notice record (R137). -/
structure Notice where
  kind : NoticeKind
  queue : QueueId
  count : Nat
  outcome : NoticeOutcome
  handle : Option Word
  deriving DecidableEq, Repr

/-- A supervisor event record (R142), with the subject and count fields of its kind. -/
inductive SupervisorEvent where
  | formatDone (frames : Nat)
  | agentRetired (a : AgentId) (returned dropped freed : Nat) (cause : RetireCause)
  | flushDone (q : QueueId) (dropped : Nat)
  | queueClosed (q : QueueId)
  | poolLow (p : PoolId) (free : Nat)
  deriving DecidableEq, Repr

/-- The control-result record (R153). -/
structure ControlResult where
  code : ControlCode
  subject : ControlSubject
  operand : Byte
  deriving DecidableEq, Repr

/-- An agent context (R109), with the agent's claim list (R63). Its configuration is held here only: DEDUCED
(log entry 12), safe. -/
structure Agent where
  state : AgentState
  enable : Bool
  quota : Nat
  claimLimit : Nat
  /-- The held list, oldest first (R115). -/
  held : List FrameIdx
  /-- The claim list, oldest first (R63). -/
  claims : List EntryId
  staging : Staging
  /-- `none`: the record is invalid, every field cleared (R67). -/
  delivery : Option Delivery
  last : LastResult
  /-- The handle of the bound frame (R126). -/
  binding : Option Word
  notices : List Notice
  lost : Bool
  noticeDetail : Word
  noticeEnable : Bool
  readyEnable : Bool
  rotation : QueueId
  cause : Option RetireCause
  /-- Claim steps of the retire in progress counted as returned (R120). -/
  returned : Nat
  /-- Claim steps of the retire in progress counted as dropped (R120). -/
  dropped : Nat
  /-- Free steps of the retire in progress (R121). -/
  freed : Nat
  deriving DecidableEq, Repr

/-- An access that a port holds without ready (R118): a command, or a plain read of a place, which is no
command (log entry 8). -/
inductive HeldAccess where
  | command (c : Instr)
  | read (x : Place)
  deriving DecidableEq, Repr

/-- Frame memory: pairs of an address and a byte other than 0, addresses rising. A byte not listed
reads 0: DEDUCED (log entry 29), safe. -/
abbrev Memory := List Host.Cell

/-- The state of the part. -/
structure State where
  controller : Controller
  /-- PORST# is asserted. -/
  porst : Bool
  /-- RSTA# is asserted. -/
  rstA : Bool
  /-- RSTB# is asserted. -/
  rstB : Bool
  /-- The accesses Port A holds without ready (R118), first presented first. -/
  heldA : List HeldAccess
  /-- The accesses Port B holds without ready (R118), first presented first. -/
  heldB : List HeldAccess
  /-- The word the last read returned on Port A's data lines. -/
  dataA : Word
  /-- The word the last read returned on Port B's data lines. -/
  dataB : Word
  pools : Table Pool 4
  events : List SupervisorEvent
  eventsLost : Bool
  eventDetail : Word
  supervisorEnable : Bool
  controlResult : ControlResult
  /-- The frame table (R2). It holds the records of the indices below `built`; of the other indices
  only the generation is kept (R7). -/
  frames : Table Frame 1024
  /-- How many frame records the frame table holds. -/
  built : Nat
  activeTotal : Nat
  freeLists : Table (List FrameIdx) 4
  scrubList : List FrameIdx
  mem : Memory
  entries : Table Entry 2048
  freeEntries : List EntryId
  queues : Table Queue 32
  /-- Bit `q` of a group's word: queue `q` is a member (R56). -/
  groups : Table Word 8
  deadLetter : Option QueueId
  agents : Table Agent 8
  prescaler : Nat
  /-- The prescaler value in force for the tick in progress (R80): DEDUCED (log entry 24), safe. -/
  tickLength : Nat
  divider : Nat
  timebase : BitVec 16
  deadlines : List EntryId
  /-- The expiries handed over at the latest tick and not yet taken or withdrawn (R84). -/
  handedOver : List EntryId
  /-- MODEL'S OWN. How many free values have been drawn. DESIGN CHOICE (log entry 5), safe. -/
  draws : Nat
  /-- MODEL'S OWN. The commands that are waiting, the next first. -/
  pending : List Instr
  deriving DecidableEq, Repr

/-! ## Reset values -/

/-- A pool definition after power-on reset (R1). -/
def Pool.reset : Pool := { sizeCode := 0, count := 0, scrub := false, lowWater := 0, armed := true }

/-- No frame record, with the generation the index keeps (R7). The other fields are DESIGN CHOICE (log entry
22), unsafe. -/
def Frame.absent (g : BitVec 5) : Frame :=
  { pool := 0, state := .free, generation := g, refs := 0, holder := none, length := 0, tag := 0,
    source := 0, reply := none, urgent := false }

/-- An entry that has never been filled: DESIGN CHOICE (log entry 22), unsafe. -/
def Entry.reset : Entry :=
  { place := .free, frame := 0, home := 0, first := 0, cls := .normal, redeliveries := 0,
    claimant := none, deadline := none }

/-- A queue record after power-on reset (R43). -/
def Queue.reset : Queue :=
  { state := .disabled, consumer := 0, permission := 0, depth := 1, threshold := 1, timeout := 0,
    limit := 0, urgent := [], normal := [], discards := 0, requester := none, flushCount := 0 }

/-- The reset values of a staging record (R47). -/
def Staging.reset : Staging :=
  { kind := .queue, number := 0, tag := 0, length := 0, urgent := false, reply := none }

/-- The reset value of a last-result record (R125). -/
def LastResult.reset : LastResult := { code := .ok, action := .none, operand := 0 }

/-- An agent context after power-on reset (R78, R110, R125, R148). -/
def Agent.reset : Agent :=
  { state := .offline, enable := false, quota := 1, claimLimit := 1, held := [], claims := [],
    staging := .reset, delivery := none, last := .reset, binding := none, notices := [],
    lost := false, noticeDetail := 0, noticeEnable := false, readyEnable := false, rotation := 31,
    cause := none, returned := 0, dropped := 0, freed := 0 }

/-- The state after power-on reset, when initialisation has ended and the controller is CONFIG (R19,
R43, R78, R95, R107, R125, R148, R153): DEDUCED (log entry 3), safe. The data lines and the levels of the
port reset lines are DESIGN CHOICE (log entry 7), unsafe. -/
def State.reset : State :=
  { controller := .config, porst := false, rstA := false, rstB := false, heldA := [], heldB := [],
    dataA := 0, dataB := 0, pools := .fill .reset, events := [], eventsLost := false,
    eventDetail := 0, supervisorEnable := false,
    controlResult := { code := .ok, subject := .none, operand := 0 },
    frames := .fill (.absent 0), built := 0, activeTotal := 0, freeLists := .fill [],
    scrubList := [], mem := [], entries := .fill .reset, freeEntries := List.finRange 2048,
    queues := .fill .reset, groups := .fill 0, deadLetter := none, agents := .fill .reset,
    prescaler := Config.resetPrescaler, tickLength := Config.resetPrescaler, divider := 0,
    timebase := 0, deadlines := [], handedOver := [], draws := 0, pending := [] }

end Sys2Proof.Machine
end

