-- ==== Sys2Proof/Machine/Memory.lean ====
section
/-!
DEFINITION. Frame memory: reading and writing bytes and words, and clearing a range (R2, R130).
-/

namespace Sys2Proof.Machine

/-- The canonical form: addresses rise strictly and lie in frame memory, and no byte listed is 0, which
is what an unlisted byte reads. -/
abbrev Memory.wf (m : Memory) : Prop :=
  m.Pairwise (fun x y => x.1 < y.1) ∧ ∀ c ∈ m, c.2 ≠ 0 ∧ c.1 < Config.memoryBytes

/-- The byte at address `k`. -/
def Memory.read : Memory → Nat → Byte
  | [], _ => 0
  | (j, v) :: rest, k => if j = k then v else Memory.read rest k

/-- The memory with byte `v` at address `k`. -/
def Memory.write : Memory → Nat → Byte → Memory
  | [], k, v => if v = 0 then [] else [(k, v)]
  | (j, x) :: rest, k, v =>
    if j < k then (j, x) :: Memory.write rest k v
    else if j = k then (if v = 0 then rest else (k, v) :: rest)
    else if v = 0 then (j, x) :: rest
    else (k, v) :: (j, x) :: rest

/-- The memory with those bytes of the `size` bytes from `base` cleared that `which` names by their
offset. -/
def Memory.clearWhere (m : Memory) (base size : Nat) (which : Nat → Bool) : Memory :=
  m.filter fun c => !(decide (base ≤ c.1) && decide (c.1 < base + size) && which (c.1 - base))

/-- The memory with the `size` bytes from `base` cleared. -/
def Memory.clear (m : Memory) (base size : Nat) : Memory := m.clearWhere base size fun _ => true

/-- The byte of lane `i` of a word: lane 0 is bits 7 to 0 (R130). -/
def laneByte (w : Word) (i : Nat) : Byte := w.extractLsb' (8 * i) 8

/-- The word whose lane `i` is `v`, the other lanes 0. -/
def inLane (v : Byte) (i : Nat) : Word := v.setWidth 32 <<< (8 * i)

/-- The enabled lanes of the word at address `k`, little-endian; 0 in the lanes not enabled (R130). -/
def Memory.readLanes (m : Memory) (k : Nat) (lanes : BitVec 4) : Word :=
  let lane (i : Nat) : Word := if lanes.getLsbD i then inLane (m.read (k + i)) i else 0
  lane 0 ||| lane 1 ||| lane 2 ||| lane 3

/-- The memory with the enabled lanes of `w` stored in the word at address `k` (R130). -/
def Memory.writeLanes (m : Memory) (k : Nat) (lanes : BitVec 4) (w : Word) : Memory :=
  let lane (m : Memory) (i : Nat) : Memory :=
    if lanes.getLsbD i then m.write (k + i) (laneByte w i) else m
  lane (lane (lane (lane m 0) 1) 2) 3

end Sys2Proof.Machine
end

