-- ==== Sys2Proof/Machine/Operands.lean ====
section
/-!
DEFINITION. The operand words: handles (R8, R167), staging words (R46, R167) and configuration words
(R168), their fields and the values refused; and the codes of R164 to R168.
-/

namespace Sys2Proof.Machine

/-! ## Bit fields -/

/-- The word with `x` in the `width` bits from bit `lo` up, 0 elsewhere. -/
def field (lo width x : Nat) : Word := (BitVec.ofNat width x).setWidth 32 <<< lo

/-- The word with bit `i` as given, 0 elsewhere. -/
def flag (i : Nat) (b : Bool) : Word := if b then 1#32 <<< i else 0

/-- The word with bit `i` set exactly where `p i` holds. -/
def bitSet (p : QueueId → Bool) : Word :=
  (List.finRange 32).foldl (fun w i => w ||| flag i.val (p i)) 0

/-- A field present only while a flag is set. -/
def present {α : Type} (b : Bool) (x : α) : Option α := if b then some x else none

/-- The queue number of five bits from bit `lo` up (R168). -/
def queueField (w : Word) (lo : Nat) : QueueId := (w.extractLsb' lo 5).toFin

/-! ## Handles (R167) -/

/-- The null handle. -/
def nullHandle : Word := 0

/-- The handle of the frame at index `i` with generation `g`. -/
def formHandle (i : FrameIdx) (g : BitVec 5) : Word :=
  flag 31 true ||| field 16 5 g.toNat ||| field 0 10 i.val

/-- The index field. -/
def handleIndex (h : Word) : FrameIdx := (h.extractLsb' 0 10).toFin

/-- The generation field. -/
def handleGeneration (h : Word) : BitVec 5 := h.extractLsb' 16 5

/-- The valid bit is set and the bits that are 0 in every handle, 30 to 21 and 15 to 10, are 0. -/
def handleWellFormed (h : Word) : Bool := h.getLsbD 31 && h &&& 0x7FE0FC00#32 == 0

/-! ## Staging words (R46, R167) -/

/-- Staging with the kind and number of a Staging Destination word. -/
def Staging.withDestination (x : Staging) (w : Word) : Staging :=
  { x with kind := if w.getLsbD 8 then .group else .queue, number := w.extractLsb' 0 5 }

/-- Staging with the type tag, urgent flag and reply queue of a Staging Attributes word. -/
def Staging.withAttributes (x : Staging) (w : Word) : Staging :=
  { x with
    tag := w.extractLsb' 0 16
    urgent := w.getLsbD 16
    reply := present (w.getLsbD 31) (queueField w 24) }

/-- Staging with the length of a Staging Length word; a word above 2048 is ignored (R46). -/
def Staging.withLength (x : Staging) (w : Word) : Staging :=
  if w.toNat ≤ 2048 then { x with length := w.toNat } else x

/-! ## Configuration words (R168)

A written bit outside the defined fields is answered BAD_VALUE; the masks name those bits. -/

/-- The frame size of a size code, in bytes (R1). -/
def frameSize (c : Fin 6) : Nat := 64 * 2 ^ c.val

/-- The pool definition a Pool Definition word makes of `x`, `none` for a word refused BAD_VALUE
(R154). The armed flag is read-only. -/
def poolOfWord (x : Pool) (w : Word) : Option Pool :=
  let code := (w.extractLsb' 0 3).toNat
  let count := (w.extractLsb' 4 11).toNat
  let mark := (w.extractLsb' 16 11).toNat
  if h : code < 6 then
    if count ≤ 1024 ∧ mark ≤ 1024 ∧ w &&& 0x78000008#32 = 0 then
      some { x with sizeCode := ⟨code, h⟩, count := count, scrub := w.getLsbD 15, lowWater := mark }
    else none
  else none

/-- The queue record a Queue Configuration word makes of `x`, `none` for a word refused BAD_VALUE
(R41). -/
def queueOfWord (x : Queue) (half : Half) (w : Word) : Option Queue :=
  match half with
  | .first =>
    if w &&& 0x00000088#32 = 0 then
      some { x with
        consumer := (w.extractLsb' 0 3).toFin
        limit := (w.extractLsb' 4 3).toNat
        permission := w.extractLsb' 8 8
        timeout := w.extractLsb' 16 16 }
    else none
  | .second =>
    let depth := (w.extractLsb' 0 11).toNat
    let threshold := (w.extractLsb' 16 11).toNat
    if 1 ≤ depth ∧ depth ≤ 1024 ∧ 1 ≤ threshold ∧ threshold ≤ depth ∧ w &&& 0xF800F800#32 = 0 then
      some { x with depth := depth, threshold := threshold }
    else none

/-- The agent context an Agent Configuration word makes of `x`, `none` for a word refused BAD_VALUE
(R110). The agent state is read-only. -/
def agentOfWord (x : Agent) (w : Word) : Option Agent :=
  let quota := (w.extractLsb' 0 11).toNat
  let limit := (w.extractLsb' 16 7).toNat
  if 1 ≤ quota ∧ quota ≤ 1024 ∧ 1 ≤ limit ∧ limit ≤ 64 ∧ w &&& 0xCE80F800#32 = 0 then
    some { x with enable := w.getLsbD 24, quota := quota, claimLimit := limit }
  else none

/-- The selection a Dead-Letter Selection word makes; outer `none` for a word refused BAD_VALUE (R92). -/
def selectionOfWord (w : Word) : Option (Option QueueId) :=
  if w &&& 0x7FFFFFE0#32 = 0 then some (present (w.getLsbD 31) (queueField w 0)) else none

/-- The prescaler a Timebase Prescaler word stores, `none` for a word refused BAD_VALUE (R80). -/
def prescalerOfWord (w : Word) : Option Nat :=
  if 1 ≤ w.toNat ∧ w.toNat ≤ Config.maxPrescaler then some w.toNat else none

/-- The enable a Supervisor Interrupt Enable word stores, `none` for a word refused BAD_VALUE (R146). -/
def enableOfWord (w : Word) : Option Bool :=
  if w &&& 0xFFFFFFFE#32 = 0 then some (w.getLsbD 0) else none

/-! ## Codes of the words read -/

/-- The result code table (R165). -/
def ResultCode.number : ResultCode → Nat
  | .ok => 0
  | .empty => 1
  | .notRunning => 2
  | .agentOffline => 3
  | .retiring => 4
  | .badHandle => 5
  | .stale => 6
  | .notOwner => 7
  | .quota => 8
  | .claimLimit => 9
  | .noQueue => 10
  | .notConsumer => 11
  | .notPermitted => 12
  | .queueFull => 13
  | .queueClosed => 14
  | .queuePaused => 15
  | .flushing => 16
  | .noEntry => 17
  | .shared => 18
  | .noReplyQueue => 19
  | .length => 20
  | .badGroup => 21
  | .violation => 22
  | .badState => 23
  | .badCommand => 24
  | .notEnabled => 25

/-- The action code table (R165). -/
def Action.number : Action → Nat
  | .none => 0
  | .alloc => 1
  | .receive => 2
  | .receiveAny => 3
  | .post => 4
  | .reply => 5
  | .free => 6
  | .complete => 7
  | .take => 8
  | .release => 9
  | .bind => 10
  | .aperture => 11
  | .command => 12
  | .attach => 13
  | .detach => 14
  | .open => 15
  | .pause => 16
  | .resume => 17
  | .drain => 18
  | .flush => 19

/-- The control result codes (R166). -/
def ControlCode.number : ControlCode → Nat
  | .ok => 0
  | .busy => 1
  | .wrongState => 2
  | .badValue => 3
  | .formatInvalid => 4
  | .badCommand => 5

/-- The controller state codes (R149). -/
def Controller.number : Controller → Nat
  | .init => 0
  | .config => 1
  | .formatting => 2
  | .running => 3

/-- The agent state codes (R167). -/
def AgentState.number : AgentState → Nat
  | .offline => 0
  | .online => 1
  | .retiring => 2

/-- The retire cause codes (R167); 0 stands for an absent cause. -/
def RetireCause.number : RetireCause → Nat
  | .detach => 1
  | .retire => 2
  | .portReset => 3

/-- The queue state codes (R168). -/
def QueueState.number : QueueState → Nat
  | .disabled => 0
  | .open => 1
  | .paused => 2
  | .draining => 3
  | .closed => 4
  | .flushing => 5

/-- The notice kind codes (R137). -/
def NoticeKind.number : NoticeKind → Nat
  | .claimExpired => 1
  | .undelivered => 2
  | .queueClosed => 3
  | .flushDone => 4

/-- The notice outcome codes (R167). -/
def NoticeOutcome.number : NoticeOutcome → Nat
  | .none => 0
  | .deadLettered => 1
  | .dropped => 2

/-- Word 0 of a notice (R167). -/
def Notice.word (n : Notice) : Word :=
  field 0 4 n.kind.number ||| field 8 5 n.queue.val ||| field 16 11 n.count |||
    field 28 2 n.outcome.number

/-- Word 0 of a supervisor event: its kind and subject (R142, R168). -/
def SupervisorEvent.word : SupervisorEvent → Word
  | .formatDone _ => field 0 4 1
  | .agentRetired a _ _ _ _ => field 0 4 2 ||| field 8 5 a.val
  | .flushDone q _ => field 0 4 3 ||| field 8 5 q.val
  | .queueClosed q => field 0 4 4 ||| field 8 5 q.val
  | .poolLow p _ => field 0 4 5 ||| field 8 5 p.val

/-- The count fields of a supervisor event (R168). -/
def SupervisorEvent.detail : SupervisorEvent → Word
  | .formatDone frames => field 0 11 frames
  | .agentRetired _ returned dropped freed cause =>
    field 0 7 returned ||| field 8 7 dropped ||| field 16 11 freed ||| field 28 2 cause.number
  | .flushDone _ dropped => field 0 11 dropped
  | .queueClosed _ => 0
  | .poolLow _ free => field 0 11 free

end Sys2Proof.Machine
end

