-- ==== Sys2Proof/Machine/Ops.lean ====
section
/-!
DEFINITION. The named operations over the state that several commands share: the records of the
tables, the bus gate, ordered checks, results, notices and events, and the frame store's part of a
request (allocation apart).
-/

namespace Sys2Proof.Machine

/-- What a command answers. -/
abbrev Out := Host.Outcome State Fault Refusal

namespace State

/-! ## Records -/

/-- The context of an agent. -/
def agent (s : State) (a : AgentId) : Agent := s.agents.get a

/-- The state with the context of an agent replaced. -/
def setAgent (s : State) (a : AgentId) (x : Agent) : State := { s with agents := s.agents.set a x }

/-- The record of a queue. -/
def queue (s : State) (q : QueueId) : Queue := s.queues.get q

/-- The state with the record of a queue replaced. -/
def setQueue (s : State) (q : QueueId) (x : Queue) : State := { s with queues := s.queues.set q x }

/-- The definition of a pool. -/
def pool (s : State) (p : PoolId) : Pool := s.pools.get p

/-- The state with the definition of a pool replaced. -/
def setPool (s : State) (p : PoolId) (x : Pool) : State := { s with pools := s.pools.set p x }

/-- The free list of a pool, front first. -/
def freeList (s : State) (p : PoolId) : List FrameIdx := s.freeLists.get p

/-- The state with the free list of a pool replaced. -/
def setFreeList (s : State) (p : PoolId) (l : List FrameIdx) : State :=
  { s with freeLists := s.freeLists.set p l }

/-- The record of a frame. -/
def frame (s : State) (f : FrameIdx) : Frame := s.frames.get f

/-- The state with the record of a frame replaced. -/
def setFrame (s : State) (f : FrameIdx) (x : Frame) : State := { s with frames := s.frames.set f x }

/-- The record of an entry. -/
def entry (s : State) (e : EntryId) : Entry := s.entries.get e

/-- The state with the record of an entry replaced. -/
def setEntry (s : State) (e : EntryId) (x : Entry) : State := { s with entries := s.entries.set e x }

/-- The member set of a group. -/
def group (s : State) (g : GroupId) : Word := s.groups.get g

/-! ## The ports -/

/-- Whether a port's reset line is asserted. -/
def resetLine (s : State) : Port → Bool
  | .a => s.rstA
  | .b => s.rstB

/-- The state with a port's reset line as given. -/
def setResetLine (s : State) (p : Port) (asserted : Bool) : State :=
  match p with
  | .a => { s with rstA := asserted }
  | .b => { s with rstB := asserted }

/-- The accesses a port holds. -/
def heldAccesses (s : State) : Port → List HeldAccess
  | .a => s.heldA
  | .b => s.heldB

/-- The state with the accesses a port holds replaced. -/
def setHeldAccesses (s : State) (p : Port) (l : List HeldAccess) : State :=
  match p with
  | .a => { s with heldA := l }
  | .b => { s with heldB := l }

/-- The word last returned on a port's data lines. -/
def data (s : State) : Port → Word
  | .a => s.dataA
  | .b => s.dataB

/-- A read returns `w` on a port's data lines. -/
def returns (s : State) (p : Port) (w : Word) : State :=
  match p with
  | .a => { s with dataA := w }
  | .b => { s with dataB := w }

end State

/-- How a port takes an access (R118, R150, R163): while its reset line is asserted the access is held
without ready; in INIT the access only completes, as `inInit` gives; otherwise `run` takes it. -/
def takeAccess (p : Port) (c : HeldAccess) (inInit : State → State) (run : State → Out) (s : State) : Out :=
  if s.resetLine p then .next (s.setHeldAccesses p (s.heldAccesses p ++ [c]))
  else if s.controller = .init then .next (inInit s)
  else run s

/-- A command that is a read: in INIT it returns 0. -/
def readAccess (p : Port) (c : Instr) (run : State → State) : State → Out :=
  takeAccess p (.command c) (fun s => s.returns p 0) fun s => .next (run s)

/-- A command that is a write: in INIT it is ignored. -/
def writeAccess (p : Port) (c : Instr) (run : State → State) : State → Out :=
  takeAccess p (.command c) id fun s => .next (run s)

/-! ## Ordered checks -/

/-- One check: refused with `r` when it fails. -/
def refuseIf {β : Type} (fails : Bool) (r : β) : Option β := if fails then some r else none

/-- The first check that fails decides the answer; `none` when every check passes. -/
def firstRefusal {β : Type} : List (Option β) → Option β
  | [] => none
  | some r :: _ => some r
  | none :: rest => firstRefusal rest

/-! ## Result records -/

/-- The last-result record of an agent is replaced (R165). -/
def State.answer (s : State) (a : AgentId) (code : ResultCode) (action : Action) (operand : Word) :
    State :=
  s.setAgent a { s.agent a with last := { code := code, action := action, operand := operand } }

/-- The control-result record is replaced (R153). -/
def State.controlAnswer (s : State) (code : ControlCode) (subject : ControlSubject) (operand : Nat) :
    State :=
  { s with
    controlResult := { code := code, subject := subject, operand := BitVec.ofNat 8 operand } }

/-- A number as an operand word. -/
def numberWord (n : Nat) : Word := BitVec.ofNat 32 n

/-- The common prefix of agent checks (R111). -/
def commonPrefix (s : State) (a : AgentId) : Option ResultCode :=
  firstRefusal
    [refuseIf (s.controller != .running) .notRunning,
     refuseIf ((s.agent a).state == .offline) .agentOffline,
     refuseIf ((s.agent a).state == .retiring) .retiring]

/-! ## Notices and events -/

/-- A notice is offered to an agent (R136). -/
def offerNotice (a : AgentId) (n : Notice) (s : State) : State :=
  let x := s.agent a
  if x.state = .online then
    if x.notices.length < Config.listCapacity then s.setAgent a { x with notices := x.notices ++ [n] }
    else s.setAgent a { x with lost := true }
  else s

/-- A supervisor event is offered (R142). -/
def offerEvent (e : SupervisorEvent) (s : State) : State :=
  if s.events.length < Config.listCapacity then { s with events := s.events ++ [e] }
  else { s with eventsLost := true }

/-- The end of a drain or flush is reported to its requester (R100, R104). -/
def report (r : Option Requester) (n : Notice) (e : SupervisorEvent) (s : State) : State :=
  match r with
  | some (.agent a) => offerNotice a n s
  | some .control => offerEvent e s
  | none => s

/-! ## The layout of frame memory (R2) -/

/-- The pools numbered below `p`. -/
def poolsBelow (p : PoolId) : List PoolId := (List.finRange 4).filter (· < p)

/-- Sum of the four frame counts. -/
def frameTotal (s : State) : Nat := ((List.finRange 4).map fun p => (s.pool p).count).sum

/-- Bytes of the frames of one pool. -/
def poolBytes (s : State) (p : PoolId) : Nat := (s.pool p).count * frameSize (s.pool p).sizeCode

/-- Bytes of all frames. -/
def layoutBytes (s : State) : Nat := ((List.finRange 4).map (poolBytes s)).sum

/-- The lowest index of a pool. -/
def poolFirst (s : State) (p : PoolId) : Nat := ((poolsBelow p).map fun j => (s.pool j).count).sum

/-- The first byte of a pool's frames. -/
def poolBase (s : State) (p : PoolId) : Nat := ((poolsBelow p).map (poolBytes s)).sum

/-- The pool that an index falls in. -/
def poolOfIndex (s : State) (i : Nat) : PoolId :=
  ((List.finRange 4).find? fun p => decide (i < poolFirst s p + (s.pool p).count)).getD 3

/-- The frame size of a frame's pool. -/
def sizeOfFrame (s : State) (f : FrameIdx) : Nat := frameSize (s.pool (s.frame f).pool).sizeCode

/-- The first byte of a frame in frame memory. -/
def frameBase (s : State) (f : FrameIdx) : Nat :=
  poolBase s (s.frame f).pool + (f.val - poolFirst s (s.frame f).pool) * sizeOfFrame s f

/-! ## Handles, holds and bindings -/

/-- The handle of a frame, formed from its record (R8). -/
def handleOf (s : State) (f : FrameIdx) : Word := formHandle f (s.frame f).generation

/-- The handle check (R9). -/
def handleCheck (s : State) (h : Word) : Option ResultCode :=
  let x := s.frame (handleIndex h)
  firstRefusal
    [refuseIf (!handleWellFormed h || decide (s.activeTotal ≤ (handleIndex h).val)) .badHandle,
     refuseIf (handleGeneration h != x.generation || x.state == .free || x.state == .scrub) .stale]

/-- The frame is HELD by the agent. -/
def holds (s : State) (a : AgentId) (f : FrameIdx) : Bool :=
  (s.frame f).state == .held && (s.frame f).holder == some a

/-- The checks that FREE, POST and REPLY make first: the common prefix, the handle check and the hold
(R14, R48, R59). -/
def holdRefusal (s : State) (a : AgentId) (h : Word) : Option ResultCode :=
  firstRefusal
    [commonPrefix s a,
     handleCheck s h,
     refuseIf (!holds s a (handleIndex h)) .notOwner]

/-- The agent's aperture is bound to the frame. -/
def boundTo (s : State) (a : AgentId) (f : FrameIdx) : Bool :=
  match (s.agent a).binding with
  | some h => handleIndex h == f
  | none => false

/-- The agent's claims on a frame, oldest first. -/
def claimsOn (s : State) (a : AgentId) (f : FrameIdx) : List EntryId :=
  (s.agent a).claims.filter fun e => (s.entry e).frame == f

/-- The aperture is unbound if it is bound to the frame (R132). -/
def unbind (a : AgentId) (f : FrameIdx) (s : State) : State :=
  if boundTo s a f then s.setAgent a { s.agent a with binding := none } else s

/-- The aperture is unbound if it is bound to the frame and no claim of the agent on the frame remains
(R132, R133). -/
def unbindWithoutClaim (a : AgentId) (f : FrameIdx) (s : State) : State :=
  if (claimsOn s a f).isEmpty then unbind a f s else s

/-- A frame joins the tail of the agent's held list (R115). -/
def joinHeld (a : AgentId) (f : FrameIdx) (s : State) : State :=
  s.setAgent a { s.agent a with held := (s.agent a).held ++ [f] }

/-- A frame leaves the agent's held list from wherever it stands (R115). -/
def leaveHeld (a : AgentId) (f : FrameIdx) (s : State) : State :=
  s.setAgent a { s.agent a with held := (s.agent a).held.erase f }

/-- The agent's held count plus its claim count is not below its quota (R66). DEDUCED (log entry 15), safe. -/
def atQuota (s : State) (a : AgentId) : Bool :=
  decide ((s.agent a).quota ≤ (s.agent a).held.length + (s.agent a).claims.length)

/-- The agent's claim count is not below its claim limit (R66). DEDUCED (log entry 15), safe. -/
def atClaimLimit (s : State) (a : AgentId) : Bool :=
  decide ((s.agent a).claimLimit ≤ (s.agent a).claims.length)

/-! ## The free path -/

/-- The low-water test after an ALLOC of pool `p` (R18). -/
def lowWaterTest (p : PoolId) (s : State) : State :=
  let free := (s.freeList p).length
  if (s.pool p).armed = true ∧ free ≤ (s.pool p).lowWater then
    offerEvent (.poolLow p free) (s.setPool p { s.pool p with armed := false })
  else s

/-- The re-arm test after a frame of pool `p` joined its free list (R18). -/
def reArmTest (p : PoolId) (s : State) : State :=
  if (s.pool p).lowWater ≤ (s.freeList p).length then
    s.setPool p { s.pool p with armed := true }
  else s

/-- A frame becomes FREE: its generation advances and it joins the tail of its pool's free list (R7,
R10). -/
def joinFreeList (f : FrameIdx) (s : State) : State :=
  let x := s.frame f
  (s.setFrame f { x with state := .free, generation := x.generation + 1 }).setFreeList x.pool
    (s.freeList x.pool ++ [f])

/-- The free path of a frame whose reference count has become 0 (R15). -/
def freePath (f : FrameIdx) (s : State) : State :=
  let x := s.frame f
  if (s.pool x.pool).scrub then
    { s.setFrame f { x with state := .scrub } with scrubList := s.scrubList ++ [f] }
  else reArmTest x.pool (joinFreeList f s)

/-- One reference to a frame is dropped (R6). -/
def dropReference (f : FrameIdx) (s : State) : State :=
  let x := s.frame f
  let s' := s.setFrame f { x with refs := x.refs - 1 }
  if x.refs - 1 = 0 then freePath f s' else s'

/-- A held frame is given back: the steps of an accepted FREE on the frame and the held list (R14,
R121). -/
def giveBack (a : AgentId) (f : FrameIdx) (s : State) : State :=
  let s := leaveHeld a f s
  freePath f (s.setFrame f { s.frame f with refs := 0, holder := none })

end Sys2Proof.Machine
end

