-- ==== Sys2Proof/Machine/QueueEngine.lean ====
section
/-!
DEFINITION. The queue engine's shared operations: counts, the lists of a queue, entries and their
deadlines, the destination tests of a post, the end of a claim, drain completion, the redelivery and
dead-letter paths.
-/

namespace Sys2Proof.Machine

/-! ## Counts and lists (R25 to R28) -/

/-- The queued count of a queue (R27). -/
def queuedCount (s : State) (q : QueueId) : Nat :=
  (s.queue q).urgent.length + (s.queue q).normal.length

/-- The claims of an agent whose home is the queue. -/
def claimsOfQueue (s : State) (q : QueueId) (a : AgentId) : List EntryId :=
  (s.agent a).claims.filter fun e => (s.entry e).home == q

/-- The claim count of a queue: the claimed entries, of any agent, whose home it is (R27). Counts are not
stored: DEDUCED (log entry 11), safe. -/
def claimCount (s : State) (q : QueueId) : Nat :=
  ((List.finRange 8).map fun a => (claimsOfQueue s q a).length).sum

/-- The queue has room: its queued count plus its claim count is below its depth limit (R28). DEDUCED (log
entry 15), safe. -/
def hasRoom (s : State) (q : QueueId) : Bool :=
  decide (queuedCount s q + claimCount s q < (s.queue q).depth)

/-- The front entry of a queue (R26). -/
def Queue.front (x : Queue) : Option EntryId :=
  match x.urgent with
  | e :: _ => some e
  | [] => x.normal.head?

/-- The queue without its front entry (R26). -/
def Queue.popFront (x : Queue) : Queue :=
  match x.urgent with
  | _ :: rest => { x with urgent := rest }
  | [] => { x with normal := x.normal.tail }

/-- An entry joins the tail of the list of its class (R25). -/
def Queue.pushTail (x : Queue) (c : EntryClass) (e : EntryId) : Queue :=
  match c with
  | .urgent => { x with urgent := x.urgent ++ [e] }
  | .normal => { x with normal := x.normal ++ [e] }

/-- An entry joins the front of the list of its class (R25). -/
def Queue.pushFront (x : Queue) (c : EntryClass) (e : EntryId) : Queue :=
  match c with
  | .urgent => { x with urgent := e :: x.urgent }
  | .normal => { x with normal := e :: x.normal }

/-- The queue is OPEN or DRAINING: it may be received from (R33). -/
def Queue.receivable (x : Queue) : Bool := x.state == .open || x.state == .draining

/-! ## Entries (R21 to R23) -/

/-- The class of the entries that a post with the urgent flag as given creates (R54). -/
def classOf (urgent : Bool) : EntryClass := if urgent then .urgent else .normal

/-- An entry is taken from the free-entry list, filled for frame `f` and queue `q`, and joins the tail
of its class list (R54). It is the front one: DESIGN CHOICE (log entry 14), safe. -/
def createEntry (f : FrameIdx) (urgent : Bool) (q : QueueId) (s : State) : State :=
  match s.freeEntries with
  | [] => s
  | e :: rest =>
    let x : Entry :=
      { place := .queued, frame := f, home := q, first := q, cls := classOf urgent,
        redeliveries := 0, claimant := none, deadline := none }
    ({ s with freeEntries := rest }.setEntry e x).setQueue q
      ((s.queue q).pushTail (classOf urgent) e)

/-- An entry returns to the free-entry list, its other fields kept (R21, R23). -/
def freeEntry (e : EntryId) (s : State) : State :=
  { s.setEntry e { s.entry e with place := .free } with freeEntries := s.freeEntries ++ [e] }

/-! ## Deadlines (R81 to R84) -/

/-- The distance of an entry on the deadline list: its deadline less the timebase count, modulo 65536,
0 read as 65536 (R82). -/
def deadlineDistance (s : State) (e : EntryId) : Nat :=
  match (s.entry e).deadline with
  | some d => if d = s.timebase then 65536 else (d - s.timebase).toNat
  | none => 0

/-- A new entry is placed behind every entry handed over and every entry that falls due at the same
tick or earlier, and before every entry that falls due later (R82). -/
def insertDeadline (s : State) (e : EntryId) : List EntryId → List EntryId
  | [] => [e]
  | x :: rest =>
    if x ∈ s.handedOver ∨ deadlineDistance s x ≤ deadlineDistance s e then
      x :: insertDeadline s e rest
    else e :: x :: rest

/-- The deadline of a claim made now of a queue with this claim timeout (R81). -/
def deadlineAt (s : State) (timeout : BitVec 16) : Option (BitVec 16) :=
  if timeout = 0 then none else some (s.timebase + timeout + 1)

/-- The entry joins the deadline list if it carries a deadline. -/
def joinDeadlines (e : EntryId) (s : State) : State :=
  match (s.entry e).deadline with
  | some _ => { s with deadlines := insertDeadline s e s.deadlines }
  | none => s

/-- The entry's deadline leaves the deadline list, and an expiry handed over for it is withdrawn (R83,
R84). -/
def leaveDeadlines (e : EntryId) (s : State) : State :=
  { s.setEntry e { s.entry e with deadline := none } with
    deadlines := s.deadlines.erase e
    handedOver := s.handedOver.erase e }

/-! ## Claims (R63, R70) -/

/-- The claim leaves the agent's claim list, with its deadline and claimant (R70, R85, R120). -/
def endClaim (a : AgentId) (e : EntryId) (s : State) : State :=
  let s := s.setAgent a { s.agent a with claims := (s.agent a).claims.erase e }
  let s := leaveDeadlines e s
  s.setEntry e { s.entry e with claimant := none }

/-- The checks that COMPLETE, TAKE and RELEASE share (R70): the common prefix, the handle check, and a
claim of the agent on the frame. -/
def claimRefusal (s : State) (a : AgentId) (h : Word) : Option ResultCode :=
  firstRefusal
    [commonPrefix s a,
     handleCheck s h,
     refuseIf (claimsOn s a (handleIndex h)).isEmpty .notOwner]

/-- The front entry of a queue becomes a claim of the agent, with its deadline, and the agent's delivery
record is loaded (R65, R67, R81). -/
def claimEntry (a : AgentId) (q : QueueId) (e : EntryId) (s : State) : State :=
  let x := s.entry e
  let f := s.frame x.frame
  let s := s.setQueue q (s.queue q).popFront
  let s := s.setEntry e
    { x with
      place := .claimed
      claimant := some a
      deadline := deadlineAt s (s.queue q).timeout }
  let s := joinDeadlines e s
  let d : Delivery :=
    { handle := handleOf s x.frame, source := f.source, tag := f.tag, length := f.length,
      urgent := f.urgent, reply := f.reply, home := x.home, first := x.first,
      redeliveries := x.redeliveries }
  s.setAgent a { s.agent a with claims := (s.agent a).claims ++ [e], delivery := some d }

/-! ## Posting (R49, R53 to R55) -/

/-- The destination queue test (R49). -/
def destinationRefusal (s : State) (a : AgentId) (q : QueueId) : Option ResultCode :=
  let x := s.queue q
  firstRefusal
    [refuseIf (x.state == .disabled) .noQueue,
     refuseIf (!x.permission.getLsbD a.val) .notPermitted,
     refuseIf (x.state == .draining || x.state == .closed) .queueClosed,
     refuseIf (x.state == .flushing) .flushing,
     refuseIf (!hasRoom s q) .queueFull]

/-- The first destination that fails its test, with the queue as operand (R48, R57). -/
def destinationsRefusal (s : State) (a : AgentId) : List QueueId → Option (ResultCode × Word)
  | [] => none
  | q :: rest =>
    match destinationRefusal s a q with
    | some code => some (code, numberWord q.val)
    | none => destinationsRefusal s a rest

/-- The members of a group in ascending queue number (R57). -/
def groupMembers (s : State) (g : GroupId) : List QueueId :=
  (List.finRange 32).filter fun q => (s.group g).getLsbD q.val

/-- The frame record that a post by agent `a` of a frame to `n` queues leaves (R53, R54). -/
def postedFrame (x : Frame) (a : AgentId) (t : Staging) (n : Nat) : Frame :=
  { x with
    state := .posted
    refs := n
    holder := none
    length := t.length
    tag := t.tag
    urgent := t.urgent
    reply := t.reply
    source := a }

/-- An accepted post or reply of frame `f` to the queues `qs` (R53 to R55, R60). -/
def postFrame (a : AgentId) (f : FrameIdx) (qs : List QueueId) (s : State) : State :=
  let t := (s.agent a).staging
  let s := s.setFrame f (postedFrame (s.frame f) a t qs.length)
  let s := qs.foldl (fun s q => createEntry f t.urgent q s) s
  unbind a f (leaveHeld a f s)

/-! ## Drain completion (R99, R100) -/

/-- QUEUE_CLOSED is reported to a drain's requester (R100). -/
def reportClosed (r : Option Requester) (q : QueueId) (s : State) : State :=
  report r { kind := .queueClosed, queue := q, count := 0, outcome := .none, handle := none }
    (.queueClosed q) s

/-- Drain completion is tested on a queue (R99). -/
def drainCompletion (q : QueueId) (s : State) : State :=
  let x := s.queue q
  if x.state = .draining ∧ queuedCount s q = 0 ∧ claimCount s q = 0 then
    reportClosed x.requester q (s.setQueue q { x with state := .closed, requester := none })
  else s

/-! ## The redelivery path (R86 to R90) -/

/-- Why an entry returns (R86). -/
inductive ReturnReason where
  | expired
  | released
  | retired
  deriving DecidableEq, Repr

/-- The UNDELIVERED notice of an entry that left queue `q` (R91). -/
def undelivered (q : QueueId) (outcome : NoticeOutcome) (h : Word) : Notice :=
  { kind := .undelivered, queue := q, count := 0, outcome := outcome, handle := some h }

/-- The entry goes back to the front of its class list, with its redelivery count as given (R87). -/
def returnEntry (e : EntryId) (redeliveries : Nat) (s : State) : State :=
  let x := s.entry e
  (s.setEntry e { x with place := .queued, redeliveries := redeliveries }).setQueue x.home
    ((s.queue x.home).pushFront x.cls e)

/-- The entry is dropped into the flush count of its home queue (R86). -/
def dropIntoFlush (e : EntryId) (s : State) : State :=
  let x := s.entry e
  let s := freeEntry e s
  let s := s.setQueue x.home { s.queue x.home with flushCount := (s.queue x.home).flushCount + 1 }
  dropReference x.frame s

/-- The entry is dropped with notice (R90). -/
def dropWithNotice (e : EntryId) (s : State) : State :=
  let x := s.entry e
  let h := handleOf s x.frame
  let source := (s.frame x.frame).source
  let s := freeEntry e s
  let s := s.setQueue x.home
    { s.queue x.home with discards := min ((s.queue x.home).discards + 1) Config.maxDiscards }
  let s := dropReference x.frame s
  let s := offerNotice source (undelivered x.home .dropped h) s
  drainCompletion x.home s

/-- Some entry whose home is queue `d`, queued or claimed, refers to the frame (R29, R88). -/
def refersFrom (s : State) (d : QueueId) (f : FrameIdx) : Bool :=
  ((s.queue d).urgent ++ (s.queue d).normal).any (fun e => (s.entry e).frame == f) ||
    (List.finRange 8).any fun a =>
      (s.agent a).claims.any fun e => (s.entry e).home == d && (s.entry e).frame == f

/-- The dead-letter queue, if the five conditions of a move of the entry hold (R88). -/
def moveTarget (s : State) (e : EntryId) : Option QueueId :=
  match s.deadLetter with
  | none => none
  | some d =>
    if d ≠ (s.entry e).home ∧ ((s.queue d).state = .open ∨ (s.queue d).state = .paused) ∧
        hasRoom s d = true ∧ refersFrom s d (s.entry e).frame = false then
      some d
    else none

/-- The entry is moved to the dead-letter queue `d` (R89); the notice joins before a report of the drain
completion (R138): DEDUCED (log entry 17), safe. -/
def moveEntry (e : EntryId) (d : QueueId) (s : State) : State :=
  let x := s.entry e
  let s := s.setEntry e { x with place := .queued, home := d, cls := .normal, redeliveries := 0 }
  let s := s.setQueue d ((s.queue d).pushTail .normal e)
  let s := offerNotice (s.frame x.frame).source
    (undelivered x.home .deadLettered (handleOf s x.frame)) s
  drainCompletion x.home s

/-- The dead-letter path (R88). -/
def deadLetterPath (e : EntryId) (s : State) : State :=
  match moveTarget s e with
  | some d => moveEntry e d s
  | none => dropWithNotice e s

/-- The redelivery count an entry that expires or is released returns with, `none` when it does not
return (R86). -/
def returnCount (s : State) (e : EntryId) : Option Nat :=
  let x := s.entry e
  match (s.queue x.home).state with
  | .open | .paused | .draining =>
    if x.redeliveries < (s.queue x.home).limit then some (x.redeliveries + 1) else none
  | .disabled | .closed | .flushing => none

/-- The redelivery path of an entry that has just left a claim list (R86). A home queue cannot be
DISABLED (R39); the model then drops the entry as for CLOSED: DESIGN CHOICE (log entry 16), safe. -/
def redeliver (e : EntryId) (reason : ReturnReason) (s : State) : State :=
  match (s.queue (s.entry e).home).state with
  | .flushing => dropIntoFlush e s
  | .closed | .disabled => dropWithNotice e s
  | .open | .paused | .draining =>
    match reason with
    | .retired => returnEntry e (s.entry e).redeliveries s
    | .expired | .released =>
      match returnCount s e with
      | some n => returnEntry e n s
      | none => deadLetterPath e s

end Sys2Proof.Machine
end

