-- ==== Sys2Proof/Machine/Agents.lean ====
section
/-!
DEFINITION. ATTACH, DETACH, UNKNOWN_AGENT_COMMAND and RETIRE, the retire operation with its steps
RETIRE_CLAIM_STEP and RETIRE_FREE_STEP (07_agents_quotas_and_retirement.md), the staging writes
(03_posting_frames.md), NOTICE and INTERRUPT_ENABLE (09_notices_supervisor_events_and_interrupt_lines.md).
-/

namespace Sys2Proof.Machine

/-- An agent context with its dynamic fields at the values ATTACH and the end of a retire give them; the
configuration and the last-result record are kept (R113, R122). -/
def Agent.cleared (x : Agent) (state : AgentState) : Agent :=
  { Agent.reset with
    state := state
    enable := x.enable
    quota := x.quota
    claimLimit := x.claimLimit
    last := x.last }

/-- The checks of ATTACH (R113). -/
def attachRefusal (s : State) (a : AgentId) : Option ResultCode :=
  firstRefusal
    [refuseIf (s.controller != .running) .notRunning,
     refuseIf ((s.agent a).state == .online) .badState,
     refuseIf ((s.agent a).state == .retiring) .retiring,
     refuseIf (!(s.agent a).enable) .notEnabled]

/-- ATTACH (R113). -/
def execAttach (a : AgentId) (s : State) : Out :=
  writeAccess (agentPort a) (.attach a)
    (fun s =>
      match attachRefusal s a with
      | some code => s.answer a code .attach 0
      | none => (s.setAgent a ((s.agent a).cleared .online)).answer a .ok .attach 0)
    s

/-! ## The retire operation -/

/-- A queue when the retire of agent `a` begins: OPEN becomes PAUSED if the agent is its consumer
(R119). -/
def Queue.pauseFor (a : AgentId) (x : Queue) : Queue :=
  if x.consumer = a ∧ x.state = .open then { x with state := .paused } else x

/-- An agent context when its retire begins (R119). The three counters are DEDUCED (log entry 21), safe. -/
def Agent.retiringFor (x : Agent) (cause : RetireCause) : Agent :=
  { x with
    state := .retiring
    cause := some cause
    binding := none
    notices := []
    lost := false
    returned := 0
    dropped := 0
    freed := 0 }

/-- The beginning of a retire (R119). -/
def beginRetire (a : AgentId) (cause : RetireCause) (s : State) : State :=
  { s.setAgent a ((s.agent a).retiringFor cause) with queues := s.queues.map (Queue.pauseFor a) }

/-- DETACH (R116). -/
def execDetach (a : AgentId) (s : State) : Out :=
  writeAccess (agentPort a) (.detach a)
    (fun s =>
      match commonPrefix s a with
      | some code => s.answer a code .detach 0
      | none => (beginRetire a .detach s).answer a .ok .detach 0)
    s

/-- RETIRE (R117, R152). -/
def execRetire (a : AgentId) (s : State) : Out :=
  writeAccess .a (.retire a)
    (fun s =>
      if s.controller = .running ∧ (s.agent a).state = .online then
        (beginRetire a .retire s).controlAnswer .ok (.command 9) a.val
      else s.controlAnswer .wrongState (.command 9) a.val)
    s

/-- A claim step is counted as returned when the home queue is OPEN, PAUSED or DRAINING, else as dropped
(R120). -/
def countsAsReturned : QueueState → Bool
  | .open | .paused | .draining => true
  | .disabled | .closed | .flushing => false

/-- The claim step of a retire on the claim `e` (R120). -/
def retireClaim (a : AgentId) (e : EntryId) (s : State) : State :=
  let returned := countsAsReturned (s.queue (s.entry e).home).state
  let s := redeliver e .retired (endClaim a e s)
  let x := s.agent a
  s.setAgent a
    (if returned then { x with returned := x.returned + 1 } else { x with dropped := x.dropped + 1 })

/-- RETIRE_CLAIM_STEP (R120): the newest claim is returned. With no claim, or no retire in progress, there
is no claim step to take (DESIGN CHOICE, log entry 1, safe). -/
def execRetireClaimStep (a : AgentId) (s : State) : Out :=
  if (s.agent a).state = .retiring then
    match (s.agent a).claims.getLast? with
    | some e => .next (retireClaim a e s)
    | none => .next s
  else .next s

/-- The end of a retire (R122). -/
def endRetire (a : AgentId) (s : State) : State :=
  let x := s.agent a
  offerEvent (.agentRetired a x.returned x.dropped x.freed (x.cause.getD .detach))
    (s.setAgent a (x.cleared .offline))

/-- The free step of a retire on the held frame `f` (R121). -/
def retireFree (a : AgentId) (f : FrameIdx) (s : State) : State :=
  let s := giveBack a f s
  s.setAgent a { s.agent a with freed := (s.agent a).freed + 1 }

/-- RETIRE_FREE_STEP (R121, R122): the oldest held frame is freed, or the retire ends. While a claim
remains, or with no retire in progress, there is no free step to take (DESIGN CHOICE, log entry 1, safe). -/
def execRetireFreeStep (a : AgentId) (s : State) : Out :=
  if (s.agent a).state = .retiring ∧ (s.agent a).claims = [] then
    match (s.agent a).held with
    | f :: _ => .next (retireFree a f s)
    | [] => .next (endRetire a s)
  else .next s

/-! ## The other ports and registers of an agent page -/

/-- UNKNOWN_AGENT_COMMAND (R112): answered before any other check. A code that names an agent command is
no word of this row (DESIGN CHOICE, log entry 10, safe). -/
def execUnknownAgentCommand (a : AgentId) (code : Byte) (s : State) : Out :=
  if (agentCommand a code 0).isNone then
    writeAccess (agentPort a) (.unknownAgentCommand a code)
      (fun s => s.answer a .badCommand .command 0) s
  else .refused .illFormed

/-- A staging write takes effect only while the agent is ONLINE (R46). -/
def stagingWrite (a : AgentId) (change : Staging → Staging) (s : State) : State :=
  let x := s.agent a
  if x.state = .online then s.setAgent a { x with staging := change x.staging } else s

/-- STAGING_DESTINATION (R46). -/
def execStagingDestination (a : AgentId) (w : Word) (s : State) : Out :=
  writeAccess (agentPort a) (.stagingDestination a w)
    (stagingWrite a fun t => t.withDestination w) s

/-- STAGING_ATTRIBUTES (R46). -/
def execStagingAttributes (a : AgentId) (w : Word) (s : State) : Out :=
  writeAccess (agentPort a) (.stagingAttributes a w)
    (stagingWrite a fun t => t.withAttributes w) s

/-- STAGING_LENGTH (R46). -/
def execStagingLength (a : AgentId) (w : Word) (s : State) : Out :=
  writeAccess (agentPort a) (.stagingLength a w) (stagingWrite a fun t => t.withLength w) s

/-- INTERRUPT_ENABLE (R144). -/
def execInterruptEnable (a : AgentId) (w : Word) (s : State) : Out :=
  writeAccess (agentPort a) (.interruptEnable a w)
    (fun s =>
      let x := s.agent a
      if x.state = .online then
        s.setAgent a { x with noticeEnable := w.getLsbD 0, readyEnable := w.getLsbD 1 }
      else s)
    s

/-- NOTICE (R139). -/
def execNotice (a : AgentId) (s : State) : Out :=
  readAccess (agentPort a) (.notice a)
    (fun s =>
      let x := s.agent a
      if x.state = .online then
        match x.notices with
        | n :: rest =>
          (s.setAgent a { x with notices := rest, noticeDetail := n.handle.getD nullHandle }).returns
            (agentPort a) n.word
        | [] =>
          (s.setAgent a { x with lost := false, noticeDetail := nullHandle }).returns (agentPort a) 0
      else s.returns (agentPort a) 0)
    s

end Sys2Proof.Machine
end

