-- ==== Sys2Proof/Machine/Aperture.lean ====
section
/-!
DEFINITION. BIND_WRITE, BIND_READ, APERTURE_READ and APERTURE_WRITE (08_the_frame_aperture.md).
-/

namespace Sys2Proof.Machine

/-- The checks of a write of a nonzero handle to BIND (R127). -/
def bindRefusal (s : State) (a : AgentId) (h : Word) : Option ResultCode :=
  firstRefusal
    [commonPrefix s a,
     handleCheck s h,
     refuseIf (!holds s a (handleIndex h) && (claimsOn s a (handleIndex h)).isEmpty) .notOwner]

/-- The aperture binding is replaced. -/
def setBinding (a : AgentId) (b : Option Word) (s : State) : State :=
  s.setAgent a { s.agent a with binding := b }

/-- BIND_WRITE (R127). A write of 0 that passes the prefix unbinds. -/
def execBindWrite (a : AgentId) (h : Word) (s : State) : Out :=
  writeAccess (agentPort a) (.bindWrite a h)
    (fun s =>
      let code := if h = nullHandle then commonPrefix s a else bindRefusal s a h
      match code with
      | some code => s.answer a code .bind h
      | none => (setBinding a (if h = nullHandle then none else some h) s).answer a .ok .bind h)
    s

/-- BIND_READ (R128). -/
def execBindRead (a : AgentId) (s : State) : Out :=
  readAccess (agentPort a) (.bindRead a)
    (fun s =>
      match commonPrefix s a with
      | some code => (s.answer a code .bind nullHandle).returns (agentPort a) nullHandle
      | none =>
        let h := (s.agent a).binding.getD nullHandle
        (s.answer a .ok .bind h).returns (agentPort a) h)
    s

/-- The read right of an agent over a frame (R129). -/
def mayRead (s : State) (a : AgentId) (f : FrameIdx) : Bool :=
  holds s a f || (s.frame f).state == .posted && !(claimsOn s a f).isEmpty

/-- The write right of an agent over a frame (R129). -/
def mayWrite (s : State) (a : AgentId) (f : FrameIdx) : Bool := holds s a f

/-- The frame that an aperture access of word `m` reaches: the binding is present, the word lies inside
the bound frame, and the access has its right (R131). -/
def apertureFrame (s : State) (a : AgentId) (m : BitVec 9) (right : State → AgentId → FrameIdx → Bool) :
    Option FrameIdx :=
  match (s.agent a).binding with
  | none => none
  | some h =>
    let f := handleIndex h
    if 4 * m.toNat < sizeOfFrame s f ∧ right s a f = true then some f else none

/-- The address in frame memory of word `m` of a frame (R130). -/
def wordAddress (s : State) (f : FrameIdx) (m : BitVec 9) : Nat := frameBase s f + 4 * m.toNat

/-- A refused aperture access is recorded with the bound handle, or the null handle (R131). -/
def refuseAperture (a : AgentId) (s : State) : State :=
  s.answer a .violation .aperture ((s.agent a).binding.getD nullHandle)

/-- APERTURE_READ (R130, R131). A word outside frame memory faults: DESIGN CHOICE (log entry 19), safe. -/
def execApertureRead (a : AgentId) (m : BitVec 9) (lanes : BitVec 4) (s : State) : Out :=
  takeAccess (agentPort a) (.command (.apertureRead a m lanes)) (fun s => s.returns (agentPort a) 0)
    (fun s =>
      match apertureFrame s a m mayRead with
      | none => .next ((refuseAperture a s).returns (agentPort a) 0)
      | some f =>
        let k := wordAddress s f m
        if k + 4 ≤ Config.memoryBytes then .next (s.returns (agentPort a) (s.mem.readLanes k lanes))
        else .fault .outsideFrameMemory)
    s

/-- APERTURE_WRITE (R130, R131). A word outside frame memory faults: DESIGN CHOICE (log entry 19), safe. -/
def execApertureWrite (a : AgentId) (m : BitVec 9) (lanes : BitVec 4) (w : Word) (s : State) : Out :=
  takeAccess (agentPort a) (.command (.apertureWrite a m lanes w)) id
    (fun s =>
      match apertureFrame s a m mayWrite with
      | none => .next (refuseAperture a s)
      | some f =>
        let k := wordAddress s f m
        if k + 4 ≤ Config.memoryBytes then .next { s with mem := s.mem.writeLanes k lanes w }
        else .fault .outsideFrameMemory)
    s

end Sys2Proof.Machine
end

