-- ==== Sys2Proof/Machine/ControlPage.lean ====
section
/-!
DEFINITION. The control page: UNKNOWN_CONTROL_COMMAND, SUPERVISOR_EVENT and the configuration writes
POOL_DEFINITION, QUEUE_CONFIGURATION, AGENT_CONFIGURATION, GROUP_MEMBER_SET, DEAD_LETTER_SELECTION,
TIMEBASE_PRESCALER and SUPERVISOR_INTERRUPT_ENABLE (R152 to R154 and the rules of each register).
-/

namespace Sys2Proof.Machine

/-- UNKNOWN_CONTROL_COMMAND (R152, R153): BAD_COMMAND for a code that names no control command, with
operand 0; else BAD_VALUE with the operand as written, its bits 15 to 8 (DEDUCED, log entry 27, unsafe). A
word that names a command is no word of this row (DESIGN CHOICE, log entry 10, safe). -/
def execUnknownControlCommand (w : Word) (s : State) : Out :=
  if (controlCommandOf w).isNone then
    writeAccess .a (.unknownControlCommand w)
      (fun s =>
        if isControlCode (commandCode w) then
          s.controlAnswer .badValue (.command (commandCode w)) (controlOperand w).toNat
        else s.controlAnswer .badCommand (.command (commandCode w)) 0)
      s
  else .refused .illFormed

/-- SUPERVISOR_EVENT (R143). -/
def execSupervisorEvent (s : State) : Out :=
  readAccess .a .supervisorEvent
    (fun s =>
      match s.events with
      | e :: rest => { s with events := rest, eventDetail := e.detail }.returns .a e.word
      | [] => { s with eventsLost := false, eventDetail := 0 }.returns .a 0)
    s

/-- A configuration write of the register at byte offset `offset`, of number `n` (R153): the checks
before the value are `refusal`; `change` is `none` for a value refused BAD_VALUE. -/
def configure (offset n : Nat) (refusal : Option ControlCode) (change : Option State) (s : State) :
    State :=
  let subject := ControlSubject.register (BitVec.ofNat 10 offset)
  match refusal, change with
  | some code, _ => s.controlAnswer code subject n
  | none, none => s.controlAnswer .badValue subject n
  | none, some s' => s'.controlAnswer .ok subject n

/-- POOL_DEFINITION (R154). -/
def execPoolDefinition (p : PoolId) (w : Word) (s : State) : Out :=
  writeAccess .a (.poolDefinition p w)
    (fun s =>
      configure (0x040 + 4 * p.val) p.val
        (firstRefusal
          [refuseIf (s.controller == .formatting) .busy, refuseIf (s.controller == .running) .wrongState])
        ((poolOfWord (s.pool p) w).map (s.setPool p)) s)
    s

/-- The byte offset of a Queue Configuration word (R166). -/
def queueConfigurationOffset (q : QueueId) (half : Half) : Nat :=
  match half with
  | .first => 0x100 + 8 * q.val
  | .second => 0x104 + 8 * q.val

/-- QUEUE_CONFIGURATION (R41). -/
def execQueueConfiguration (q : QueueId) (half : Half) (w : Word) (s : State) : Out :=
  writeAccess .a (.queueConfiguration q half w)
    (fun s =>
      configure (queueConfigurationOffset q half) q.val
        (firstRefusal
          [refuseIf (s.controller == .formatting) .busy,
           refuseIf ((s.queue q).state != .disabled) .wrongState])
        ((queueOfWord (s.queue q) half w).map (s.setQueue q)) s)
    s

/-- AGENT_CONFIGURATION (R110): BAD_VALUE comes before WRONG_STATE. -/
def execAgentConfiguration (a : AgentId) (w : Word) (s : State) : Out :=
  writeAccess .a (.agentConfiguration a w)
    (fun s =>
      let x := s.agent a
      let refusal :=
        match agentOfWord x w with
        | none => some .badValue
        | some y =>
          refuseIf
            (x.state != .offline && (y.quota != x.quota || y.claimLimit != x.claimLimit)) .wrongState
      configure (0x060 + 4 * a.val) a.val refusal ((agentOfWord x w).map (s.setAgent a)) s)
    s

/-- GROUP_MEMBER_SET (R56): never refused. -/
def execGroupMemberSet (g : GroupId) (w : Word) (s : State) : Out :=
  writeAccess .a (.groupMemberSet g w)
    (fun s => configure (0x080 + 4 * g.val) g.val none (some { s with groups := s.groups.set g w }) s) s

/-- DEAD_LETTER_SELECTION (R92). -/
def execDeadLetterSelection (w : Word) (s : State) : Out :=
  writeAccess .a (.deadLetterSelection w)
    (fun s =>
      configure 0x014 0 none ((selectionOfWord w).map fun x => { s with deadLetter := x }) s) s

/-- TIMEBASE_PRESCALER (R80): the value takes effect from the next tick. -/
def execTimebasePrescaler (w : Word) (s : State) : Out :=
  writeAccess .a (.timebasePrescaler w)
    (fun s =>
      configure 0x00C 0 none ((prescalerOfWord w).map fun n => { s with prescaler := n }) s) s

/-- SUPERVISOR_INTERRUPT_ENABLE (R146). -/
def execSupervisorInterruptEnable (w : Word) (s : State) : Out :=
  writeAccess .a (.supervisorInterruptEnable w)
    (fun s =>
      configure 0x020 0 none ((enableOfWord w).map fun b => { s with supervisorEnable := b }) s) s

end Sys2Proof.Machine
end

