-- ==== Sys2Proof/Machine/Controller.lean ====
section
/-!
DEFINITION. The controller: FORMAT, the build with FORMAT_BUILD_STEP and FORMAT_COMPLETION, RESTART
(10_controller_states_configuration_and_formatting.md), and SCRUB_COMPLETION
(01_frames_pools_and_handles.md).
-/

namespace Sys2Proof.Machine

/-! ## FORMAT and the build -/

/-- The operand of FORMAT_INVALID, `none` when the definitions are valid (R155). -/
def formatFailure (s : State) : Option Nat :=
  firstRefusal
    ([refuseIf (frameTotal s == 0 || decide (Config.maxFrames < frameTotal s)) 4,
      refuseIf (decide (Config.memoryBytes < layoutBytes s)) 4] ++
     (List.finRange 4).map fun p =>
       refuseIf (decide ((s.pool p).count < (s.pool p).lowWater)) p.val)

/-- FORMAT (R155). -/
def execFormat (s : State) : Out :=
  writeAccess .a .format
    (fun s =>
      match s.controller with
      | .formatting => s.controlAnswer .busy (.command 1) 0
      | .running => s.controlAnswer .wrongState (.command 1) 0
      | .config | .init =>
        match formatFailure s with
        | some operand => s.controlAnswer .formatInvalid (.command 1) operand
        | none => { s with controller := .formatting, built := 0 }.controlAnswer .ok (.command 1) 0)
    s

/-- The build enters frame `f` (R156). -/
def buildFrame (f : FrameIdx) (s : State) : State :=
  let p := poolOfIndex s f.val
  let s := s.setFrame f { Frame.absent ((s.frame f).generation + 1) with pool := p }
  let s :=
    if (s.pool p).scrub then { s with mem := s.mem.clear (frameBase s f) (sizeOfFrame s f) } else s
  { s.setFreeList p (s.freeList p ++ [f]) with built := s.built + 1 }

/-- FORMAT_BUILD_STEP (R156). With no build in progress, or every frame entered, there is no step to
take (DESIGN CHOICE, log entry 1, safe). -/
def execFormatBuildStep (s : State) : Out :=
  if h : s.controller = .formatting ∧ s.built < frameTotal s ∧ s.built < 1024 then
    .next (buildFrame ⟨s.built, h.2.2⟩ s)
  else .next s

/-- FORMAT_COMPLETION (R158). While a frame is still to be entered, or with no build in progress, nothing
completes (DESIGN CHOICE, log entry 1, safe). -/
def execFormatCompletion (s : State) : Out :=
  if s.controller = .formatting ∧ frameTotal s ≤ s.built then
    .next
      (offerEvent (.formatDone (frameTotal s))
        { s with
          activeTotal := frameTotal s
          pools := s.pools.map fun x => { x with armed := true }
          controller := .running })
  else .next s

/-! ## The scrub unit -/

/-- The clear of frame `f`, the front of the scrub list, completes (R17). -/
def scrubFrame (f : FrameIdx) (s : State) : State :=
  let s := { s with mem := s.mem.clear (frameBase s f) (sizeOfFrame s f), scrubList := s.scrubList.tail }
  reArmTest (s.frame f).pool (joinFreeList f s)

/-- SCRUB_COMPLETION (R17). With no clear in progress nothing completes (DESIGN CHOICE, log entry 1, safe).
A clear is in progress whenever the controller is RUNNING and the list is not empty (DEDUCED, log entry 28,
safe). -/
def execScrubCompletion (s : State) : Out :=
  match s.controller, s.scrubList with
  | .running, f :: _ => .next (scrubFrame f s)
  | _, _ => .next s

/-! ## RESTART -/

/-- RESTART abandons a clear: one is in progress whenever the controller is RUNNING and the scrub list is
not empty (R17). -/
def abandonsScrub (s : State) : Bool := s.controller == .running && !s.scrubList.isEmpty

/-- Frame memory when RESTART abandons the clear in progress: of the front frame of the scrub list any
bytes may already be cleared, as the free value says (R17, R20). DESIGN CHOICE (log entry 4), safe. -/
def abandonedScrub (s : State) : Memory :=
  match s.controller, s.scrubList with
  | .running, f :: _ =>
    s.mem.clearWhere (frameBase s f) (sizeOfFrame s f) (Config.scrubbed s.draws)
  | _, _ => s.mem

/-- An agent context after RESTART (R125). -/
def Agent.restarted (x : Agent) : Agent :=
  { Agent.reset with enable := x.enable, quota := x.quota, claimLimit := x.claimLimit }

/-- A queue record after RESTART (R44). -/
def Queue.restarted (x : Queue) : Queue :=
  { x with
    state := .disabled
    urgent := []
    normal := []
    discards := 0
    requester := none
    flushCount := 0 }

/-- An entry after RESTART: on the free-entry list (R44). -/
def Entry.restarted (x : Entry) : Entry :=
  { x with place := .free, claimant := none, deadline := none }

/-- RESTART taken (R159, with R20, R44, R95, R107, R125, R148). It is taken between two build steps, so the
step in hand has completed (DEDUCED, log entry 25, safe). -/
def restartState (s : State) : State :=
  { s with
    controller := .config
    activeTotal := 0
    frames := s.frames.map fun x => Frame.absent x.generation
    built := 0
    freeLists := .fill []
    scrubList := []
    mem := abandonedScrub s
    draws := if abandonsScrub s then s.draws + 1 else s.draws
    entries := s.entries.map Entry.restarted
    freeEntries := List.finRange 2048
    queues := s.queues.map Queue.restarted
    agents := s.agents.map Agent.restarted
    deadlines := []
    handedOver := []
    events := []
    eventsLost := false
    eventDetail := 0 }

/-- RESTART (R159). -/
def execRestart (s : State) : Out :=
  writeAccess .a .restart (fun s => (restartState s).controlAnswer .ok (.command 2) 0) s

end Sys2Proof.Machine
end

