-- ==== Sys2Proof/Machine/Frames.lean ====
section
/-!
DEFINITION. ALLOC and FREE (01_frames_pools_and_handles.md).
-/

namespace Sys2Proof.Machine

/-- The checks of ALLOC (R12). -/
def allocRefusal (s : State) (a : AgentId) (p : PoolId) : Option ResultCode :=
  firstRefusal
    [commonPrefix s a,
     refuseIf (atQuota s a) .quota,
     refuseIf ((s.pool p).count == 0 || (s.freeList p).isEmpty) .empty]

/-- Frame `f`, just removed from its free list, becomes HELD by the agent (R12). -/
def allocFrame (a : AgentId) (f : FrameIdx) (s : State) : State :=
  let x := s.frame f
  joinHeld a f
    (s.setFrame f
      { x with
        state := .held
        refs := 1
        holder := some a
        length := 0
        tag := 0
        source := a
        reply := none
        urgent := false })

/-- ALLOC (R12). -/
def execAlloc (a : AgentId) (p : PoolId) (s : State) : Out :=
  readAccess (agentPort a) (.alloc a p)
    (fun s =>
      match allocRefusal s a p, s.freeList p with
      | none, f :: rest =>
        let s := allocFrame a f (s.setFreeList p rest)
        let s := lowWaterTest p s
        (s.answer a .ok .alloc (numberWord p.val)).returns (agentPort a) (handleOf s f)
      | code, _ =>
        (s.answer a (code.getD .empty) .alloc (numberWord p.val)).returns (agentPort a) nullHandle)
    s

/-- FREE (R14). -/
def execFree (a : AgentId) (h : Word) (s : State) : Out :=
  writeAccess (agentPort a) (.free a h)
    (fun s =>
      match holdRefusal s a h with
      | some code => s.answer a code .free h
      | none => (unbind a (handleIndex h) (giveBack a (handleIndex h) s)).answer a .ok .free h)
    s

end Sys2Proof.Machine
end

