-- ==== Sys2Proof/Machine/Posting.lean ====
section
/-!
DEFINITION. POST, POST_TO_GROUP and REPLY (03_posting_frames.md).
-/

namespace Sys2Proof.Machine

/-- The queues a post goes to, as staged; `none` for BAD_GROUP (R45, R57). -/
def stagedQueues (s : State) (a : AgentId) : Option (List QueueId) :=
  let t := (s.agent a).staging
  match t.kind with
  | .queue => some [t.number.toFin]
  | .group =>
    if h : t.number.toNat < 8 then
      let qs := groupMembers s ⟨t.number.toNat, h⟩
      if qs.isEmpty then none else some qs
    else none

/-- A refusal of a check that names the handle as written as its operand. -/
def withHandle (h : Word) (code : Option ResultCode) : Option (ResultCode × Word) :=
  code.map fun c => (c, h)

/-- The staged length is above the frame size of the frame's pool (R48, R59). -/
def tooLong (s : State) (a : AgentId) (f : FrameIdx) : Bool :=
  decide (sizeOfFrame s f < (s.agent a).staging.length)

/-- The checks of POST (R48, R57), each with the operand it records. -/
def postRefusal (s : State) (a : AgentId) (h : Word) : Option (ResultCode × Word) :=
  let number := numberWord (s.agent a).staging.number.toNat
  firstRefusal
    [withHandle h (holdRefusal s a h),
     refuseIf (tooLong s a (handleIndex h)) (.length, h),
     refuseIf (stagedQueues s a).isNone (.badGroup, number),
     destinationsRefusal s a ((stagedQueues s a).getD []),
     refuseIf (decide (s.freeEntries.length < ((stagedQueues s a).getD []).length)) (.noEntry, number)]

/-- A write to POST: the frame goes to the queue or group that is staged (R48, R57). -/
def postWrite (a : AgentId) (h : Word) (s : State) : State :=
  match postRefusal s a h with
  | some (code, operand) => s.answer a code .post operand
  | none => (postFrame a (handleIndex h) ((stagedQueues s a).getD []) s).answer a .ok .post h

/-- POST (R48). One write to POST is POST or POST_TO_GROUP as the staged kind says when it is taken:
DEDUCED (log entry 9), safe. -/
def execPost (a : AgentId) (h : Word) (s : State) : Out :=
  writeAccess (agentPort a) (.post a h) (postWrite a h) s

/-- POST_TO_GROUP (R57). -/
def execPostToGroup (a : AgentId) (h : Word) (s : State) : Out :=
  writeAccess (agentPort a) (.postToGroup a h) (postWrite a h) s

/-- The checks of REPLY (R59). The queue tested is the frame's reply queue. -/
def replyRefusal (s : State) (a : AgentId) (h : Word) (q : QueueId) : Option (ResultCode × Word) :=
  let present := (s.frame (handleIndex h)).reply.isSome
  firstRefusal
    [withHandle h (holdRefusal s a h),
     refuseIf (!present) (.noReplyQueue, h),
     refuseIf (tooLong s a (handleIndex h)) (.length, h),
     destinationsRefusal s a [q],
     refuseIf s.freeEntries.isEmpty (.noEntry, numberWord q.val)]

/-- REPLY (R59, R60). -/
def execReply (a : AgentId) (h : Word) (s : State) : Out :=
  writeAccess (agentPort a) (.reply a h)
    (fun s =>
      let q := (s.frame (handleIndex h)).reply.getD 0
      match replyRefusal s a h q with
      | some (code, operand) => s.answer a code .reply operand
      | none => (postFrame a (handleIndex h) [q] s).answer a .ok .reply h)
    s

end Sys2Proof.Machine
end

