-- ==== Sys2Proof/Machine/QueueCommands.lean ====
section
/-!
DEFINITION. OPEN, PAUSE, RESUME, DRAIN, FLUSH, DISABLE, CLEAR_DISCARD and FLUSH_STEP
(02_the_queue_table.md, 06_draining_and_flushing.md).
-/

namespace Sys2Proof.Machine

/-- The checks of a queue command on an agent page before its transition (R35). -/
def queueCommandRefusal (s : State) (a : AgentId) (q : QueueId) : Option ResultCode :=
  firstRefusal
    [commonPrefix s a,
     refuseIf ((s.queue q).state == .disabled) .noQueue,
     refuseIf ((s.queue q).consumer != a) .notConsumer]

/-- A queue command (R35, R36). `transition` makes the change, `none` where the queue's state allows no
such change; `refused` is what an agent is then answered. -/
def queueCommand (r : Requester) (q : QueueId) (action : Action) (code : Byte) (refused : ResultCode)
    (transition : State → Option State) (s : State) : State :=
  match r with
  | .agent a =>
    match queueCommandRefusal s a q with
    | some c => s.answer a c action (numberWord q.val)
    | none =>
      match transition s with
      | some s' => s'.answer a .ok action (numberWord q.val)
      | none => s.answer a refused action (numberWord q.val)
  | .control =>
    if s.controller = .running then
      match transition s with
      | some s' => s'.controlAnswer .ok (.command code) q.val
      | none => s.controlAnswer .wrongState (.command code) q.val
    else s.controlAnswer .wrongState (.command code) q.val

/-- The change OPEN makes (R37). A DISABLED queue has no entries (R39), and starts with no pending
requester and flush count 0. -/
def openChange (q : QueueId) (s : State) : Option State :=
  match (s.queue q).state with
  | .disabled =>
    some (s.setQueue q { s.queue q with state := .open, requester := none, flushCount := 0 })
  | .closed => some (s.setQueue q { s.queue q with state := .open })
  | .open | .paused | .draining | .flushing => none

/-- OPEN (R37). -/
def execOpen (r : Requester) (q : QueueId) (s : State) : Out :=
  writeAccess (requesterPort r) (.openQueue r q)
    (queueCommand r q .open 3 .badState (openChange q)) s

/-- The change PAUSE makes (R38). -/
def pauseChange (q : QueueId) (s : State) : Option State :=
  match (s.queue q).state with
  | .open => some (s.setQueue q { s.queue q with state := .paused })
  | .disabled | .paused | .draining | .closed | .flushing => none

/-- PAUSE (R38). -/
def execPause (r : Requester) (q : QueueId) (s : State) : Out :=
  writeAccess (requesterPort r) (.pause r q)
    (queueCommand r q .pause 4 .badState (pauseChange q)) s

/-- The change RESUME makes (R38). -/
def resumeChange (q : QueueId) (s : State) : Option State :=
  match (s.queue q).state with
  | .paused => some (s.setQueue q { s.queue q with state := .open })
  | .disabled | .open | .draining | .closed | .flushing => none

/-- RESUME (R38). -/
def execResume (r : Requester) (q : QueueId) (s : State) : Out :=
  writeAccess (requesterPort r) (.resume r q)
    (queueCommand r q .resume 5 .badState (resumeChange q)) s

/-- The change DRAIN makes (R97): CLOSED at once with its report when the queue has no entries, else
DRAINING with the writer as pending requester. -/
def drainChange (r : Requester) (q : QueueId) (s : State) : Option State :=
  match (s.queue q).state with
  | .open | .paused =>
    if queuedCount s q = 0 ∧ claimCount s q = 0 then
      some (reportClosed (some r) q (s.setQueue q { s.queue q with state := .closed }))
    else some (s.setQueue q { s.queue q with state := .draining, requester := some r })
  | .disabled | .draining | .closed | .flushing => none

/-- DRAIN (R97). -/
def execDrain (r : Requester) (q : QueueId) (s : State) : Out :=
  writeAccess (requesterPort r) (.drain r q)
    (queueCommand r q .drain 6 .badState (drainChange r q)) s

/-- The change FLUSH makes (R101). -/
def flushChange (r : Requester) (q : QueueId) (s : State) : Option State :=
  match (s.queue q).state with
  | .open | .paused | .draining | .closed =>
    some (s.setQueue q { s.queue q with state := .flushing, requester := some r, flushCount := 0 })
  | .disabled | .flushing => none

/-- FLUSH (R101). An agent's FLUSH of a FLUSHING queue is answered FLUSHING (R35). -/
def execFlush (r : Requester) (q : QueueId) (s : State) : Out :=
  writeAccess (requesterPort r) (.flush r q)
    (queueCommand r q .flush 7 .flushing (flushChange r q)) s

/-- The change DISABLE makes (R39). -/
def disableChange (q : QueueId) (s : State) : Option State :=
  match (s.queue q).state with
  | .closed =>
    if claimCount s q = 0 then some (s.setQueue q { s.queue q with state := .disabled }) else none
  | .disabled | .open | .paused | .draining | .flushing => none

/-- DISABLE (R39). -/
def execDisable (q : QueueId) (s : State) : Out :=
  writeAccess .a (.disable q)
    (queueCommand .control q .none 8 .badState (disableChange q)) s

/-- CLEAR_DISCARD (R32). -/
def execClearDiscard (q : QueueId) (s : State) : Out :=
  writeAccess .a (.clearDiscard q)
    (fun s =>
      (s.setQueue q { s.queue q with discards := 0 }).controlAnswer .ok (.command 10) q.val)
    s

/-! ## The flush operation -/

/-- A flush step drops the front entry of the queue (R102). -/
def flushDrop (q : QueueId) (e : EntryId) (s : State) : State :=
  let f := (s.entry e).frame
  let x := (s.queue q).popFront
  let s := s.setQueue q { x with flushCount := x.flushCount + 1 }
  dropReference f (freeEntry e s)

/-- The flush end (R104). -/
def flushEnd (q : QueueId) (s : State) : State :=
  let x := s.queue q
  report x.requester
    { kind := .flushDone, queue := q, count := x.flushCount, outcome := .none, handle := none }
    (.flushDone q x.flushCount)
    (s.setQueue q { x with state := .closed, requester := none, flushCount := 0 })

/-- FLUSH_STEP (R102). A queue that is not FLUSHING has no step to take (DESIGN CHOICE, log entry 1, safe). -/
def execFlushStep (q : QueueId) (s : State) : Out :=
  if (s.queue q).state = .flushing then
    match (s.queue q).front with
    | some e => .next (flushDrop q e s)
    | none => .next (flushEnd q s)
  else .next s

end Sys2Proof.Machine
end

