-- ==== Sys2Proof/Machine/Receiving.lean ====
section
/-!
DEFINITION. RECEIVE, RECEIVE_ANY, COMPLETE, TAKE and RELEASE (04_receiving_and_claims.md).
-/

namespace Sys2Proof.Machine

/-- The answer to a receive by a queue's state, `none` when it may be received from (R33, R64). -/
def receiveStateRefusal : QueueState → Option ResultCode
  | .open | .draining => none
  | .disabled => some .noQueue
  | .paused => some .queuePaused
  | .closed => some .queueClosed
  | .flushing => some .flushing

/-- The checks of RECEIVE (R64). -/
def receiveRefusal (s : State) (a : AgentId) (q : QueueId) : Option ResultCode :=
  firstRefusal
    [commonPrefix s a,
     refuseIf ((s.queue q).state == .disabled) .noQueue,
     refuseIf ((s.queue q).consumer != a) .notConsumer,
     receiveStateRefusal (s.queue q).state,
     refuseIf (atQuota s a) .quota,
     refuseIf (atClaimLimit s a) .claimLimit,
     refuseIf (s.queue q).front.isNone .empty]

/-- A receive of queue `q` is accepted with its front entry `e` (R65). -/
def acceptReceive (a : AgentId) (q : QueueId) (e : EntryId) (action : Action) (s : State) : State :=
  let h := handleOf s (s.entry e).frame
  ((claimEntry a q e s).answer a .ok action (numberWord q.val)).returns (agentPort a) h

/-- A receive is refused: the read returns the null handle (R64, R68). -/
def refuseReceive (a : AgentId) (code : ResultCode) (action : Action) (operand : Word) (s : State) :
    State :=
  (s.answer a code action operand).returns (agentPort a) nullHandle

/-- RECEIVE (R64, R65). -/
def execReceive (a : AgentId) (q : QueueId) (s : State) : Out :=
  readAccess (agentPort a) (.receive a q)
    (fun s =>
      match receiveRefusal s a q, (s.queue q).front with
      | none, some e => acceptReceive a q e .receive s
      | code, _ => refuseReceive a (code.getD .empty) .receive (numberWord q.val) s)
    s

/-- Queue `q` is a candidate of RECEIVE-ANY (R68). -/
def candidate (s : State) (a : AgentId) (q : QueueId) : Bool :=
  (s.queue q).consumer == a && (s.queue q).receivable && (s.queue q).front.isSome

/-- The queue numbers in search order: from the rotation pointer plus 1 round to the pointer (R69). -/
def searchOrder (rotation : QueueId) : List QueueId :=
  (List.finRange 32).map fun i => rotation + 1 + i

/-- The queue RECEIVE-ANY chooses: the first candidate in search order that has an urgent entry, else the
first candidate (R69). -/
def chooseQueue (s : State) (a : AgentId) : Option QueueId :=
  let order := searchOrder (s.agent a).rotation
  (order.find? fun q => candidate s a q && !(s.queue q).urgent.isEmpty).or
    (order.find? (candidate s a))

/-- The checks of RECEIVE-ANY (R68). -/
def receiveAnyRefusal (s : State) (a : AgentId) : Option ResultCode :=
  firstRefusal
    [commonPrefix s a,
     refuseIf (atQuota s a) .quota,
     refuseIf (atClaimLimit s a) .claimLimit,
     refuseIf (chooseQueue s a).isNone .empty]

/-- RECEIVE_ANY (R68, R69). -/
def execReceiveAny (a : AgentId) (s : State) : Out :=
  readAccess (agentPort a) (.receiveAny a)
    (fun s =>
      let rotation := (s.agent a).rotation
      match receiveAnyRefusal s a, chooseQueue s a with
      | none, some q =>
        match (s.queue q).front with
        | some e =>
          acceptReceive a q e .receiveAny (s.setAgent a { s.agent a with rotation := q })
        | none => refuseReceive a .empty .receiveAny (numberWord rotation.val) s
      | code, _ => refuseReceive a (code.getD .empty) .receiveAny (numberWord rotation.val) s)
    s

/-- COMPLETE of the agent's claim `e` (R71). -/
def completeClaim (a : AgentId) (e : EntryId) (s : State) : State :=
  let x := s.entry e
  let s := freeEntry e (endClaim a e s)
  let s := unbindWithoutClaim a x.frame (dropReference x.frame s)
  drainCompletion x.home s

/-- COMPLETE (R70, R71). -/
def execComplete (a : AgentId) (h : Word) (s : State) : Out :=
  writeAccess (agentPort a) (.complete a h)
    (fun s =>
      match claimRefusal s a h, claimsOn s a (handleIndex h) with
      | none, e :: _ => (completeClaim a e s).answer a .ok .complete h
      | code, _ => s.answer a (code.getD .notOwner) .complete h)
    s

/-- The checks of TAKE (R70, R72). -/
def takeRefusal (s : State) (a : AgentId) (h : Word) : Option ResultCode :=
  firstRefusal
    [claimRefusal s a h,
     refuseIf ((s.frame (handleIndex h)).refs != 1) .shared]

/-- TAKE of the agent's claim `e` (R72). -/
def takeClaim (a : AgentId) (e : EntryId) (s : State) : State :=
  let x := s.entry e
  let s := freeEntry e (endClaim a e s)
  let s := s.setFrame x.frame { s.frame x.frame with state := .held, holder := some a }
  drainCompletion x.home (joinHeld a x.frame s)

/-- TAKE (R70, R72). -/
def execTake (a : AgentId) (h : Word) (s : State) : Out :=
  writeAccess (agentPort a) (.take a h)
    (fun s =>
      match takeRefusal s a h, claimsOn s a (handleIndex h) with
      | none, e :: _ => (takeClaim a e s).answer a .ok .take h
      | code, _ => s.answer a (code.getD .notOwner) .take h)
    s

/-- RELEASE of the agent's claim `e` (R73). -/
def releaseClaim (a : AgentId) (e : EntryId) (s : State) : State :=
  redeliver e .released (unbindWithoutClaim a (s.entry e).frame (endClaim a e s))

/-- RELEASE (R70, R73). -/
def execRelease (a : AgentId) (h : Word) (s : State) : Out :=
  writeAccess (agentPort a) (.release a h)
    (fun s =>
      match claimRefusal s a h, claimsOn s a (handleIndex h) with
      | none, e :: _ => (releaseClaim a e s).answer a .ok .release h
      | code, _ => s.answer a (code.getD .notOwner) .release h)
    s

end Sys2Proof.Machine
end

