-- ==== Sys2Proof/Machine/Flags.lean ====
section
/-!
DEFINITION. What follows the state and is stored nowhere: the ready sets (R30), the interrupt lines
(R145, R146) and the counts of the pools (R11). DEDUCED (log entries 11 and 13), safe.
-/

namespace Sys2Proof.Machine

/-- Queue `q` is in the ready set of the agent (R30). -/
def ready (s : State) (a : AgentId) (q : QueueId) : Bool :=
  (s.queue q).consumer == a && (s.queue q).receivable &&
    decide ((s.queue q).threshold ≤ queuedCount s q)

/-- The ready set of the agent holds some queue. -/
def anyReady (s : State) (a : AgentId) : Bool := (List.finRange 32).any (ready s a)

/-- The interrupt line of an agent is asserted (R145). -/
def agentLine (s : State) (a : AgentId) : Bool :=
  let x := s.agent a
  x.state == .online && (x.noticeEnable && !x.notices.isEmpty || x.readyEnable && anyReady s a)

/-- INTS# is asserted (R146). -/
def supervisorLine (s : State) : Bool := s.supervisorEnable && !s.events.isEmpty

/-- How many records of the frame table are frames of pool `p` in state `x` (R11). -/
def poolCount (s : State) (p : PoolId) (x : FrameState) : Nat :=
  (List.finRange 1024).countP fun f =>
    decide (f.val < s.built) && (s.frame f).pool == p && (s.frame f).state == x

end Sys2Proof.Machine
end

