-- ==== Sys2Proof/Machine/Registers.lean ====
section
/-!
DEFINITION. The words of the register maps (R164, R166 to R168), what a read of a plain register returns,
and what a bus access comes to. A plain read is no command: it changes the data lines of its port only, or
waits with the accesses that the port holds. DESIGN CHOICE (log entry 8), safe.
-/

namespace Sys2Proof.Machine

/-! ## The agent page (R167) -/

/-- Staging Destination. -/
def stagingDestinationWord (t : Staging) : Word :=
  field 0 5 t.number.toNat ||| flag 8 (t.kind == .group)

/-- A reply queue: its number from bit 24 up, 0 while absent. -/
def replyField (r : Option QueueId) : Word :=
  match r with
  | some q => field 24 5 q.val
  | none => 0

/-- Staging Attributes. -/
def stagingAttributesWord (t : Staging) : Word :=
  field 0 16 t.tag.toNat ||| flag 16 t.urgent ||| replyField t.reply ||| flag 31 t.reply.isSome

/-- Staging Length. -/
def stagingLengthWord (t : Staging) : Word := field 0 12 t.length

/-- Delivery Handle; the null handle while the record is invalid (R67). -/
def deliveryHandleWord : Option Delivery → Word
  | some d => d.handle
  | none => nullHandle

/-- Delivery Attributes; 0 while the record is invalid. -/
def deliveryAttributesWord : Option Delivery → Word
  | some d =>
    field 0 16 d.tag.toNat ||| flag 16 d.urgent ||| field 17 3 d.redeliveries |||
      field 20 3 d.source.val ||| flag 23 d.reply.isSome ||| replyField d.reply
  | none => 0

/-- Delivery Length; 0 while the record is invalid. -/
def deliveryLengthWord : Option Delivery → Word
  | some d =>
    field 0 12 d.length ||| field 16 5 d.home.val ||| field 24 5 d.first.val ||| flag 31 true
  | none => 0

/-- Last Result (R165). -/
def lastResultWord (r : LastResult) : Word := field 0 5 r.code.number ||| field 8 5 r.action.number

/-- The code of a retire cause, 0 while absent. -/
def causeNumber : Option RetireCause → Nat
  | some c => c.number
  | none => 0

/-- Agent Status (R109, R140). -/
def agentStatusWord (x : Agent) : Word :=
  field 0 2 x.state.number ||| field 2 2 (causeNumber x.cause) ||| field 4 5 x.notices.length |||
    flag 9 x.lost ||| field 10 11 x.held.length ||| field 21 7 x.claims.length

/-- Ready Set (R31). -/
def readySetWord (s : State) (a : AgentId) : Word := bitSet (ready s a)

/-- Interrupt Enable (R144). -/
def interruptEnableWord (x : Agent) : Word := flag 0 x.noticeEnable ||| flag 1 x.readyEnable

/-- Controller Status (R149). -/
def controllerStatusWord (s : State) : Word :=
  field 0 2 s.controller.number ||| field 8 11 s.activeTotal ||| field 20 5 s.events.length |||
    flag 28 s.eventsLost

/-! ## The control page (R168) -/

/-- Control Result (R166). -/
def controlResultWord (r : ControlResult) : Word :=
  let subject :=
    match r.subject with
    | .none => 0
    | .command code => field 8 10 code.toNat
    | .register offset => flag 7 true ||| field 8 10 offset.toNat
  field 0 6 r.code.number ||| subject ||| field 24 8 r.operand.toNat

/-- Dead-Letter Selection (R92). -/
def selectionWord : Option QueueId → Word
  | some q => field 0 5 q.val ||| flag 31 true
  | none => 0

/-- Pool Definition (R154). -/
def poolWord (x : Pool) : Word :=
  field 0 3 x.sizeCode.val ||| field 4 11 x.count ||| flag 15 x.scrub ||| field 16 11 x.lowWater |||
    flag 31 x.armed

/-- Pool Status (R11). -/
def poolStatusWord (s : State) (p : PoolId) : Half → Word
  | .first => field 0 11 (s.freeList p).length ||| field 16 11 (poolCount s p .scrub)
  | .second => field 0 11 (poolCount s p .held) ||| field 16 11 (poolCount s p .posted)

/-- Agent Configuration (R110). -/
def agentConfigurationWord (x : Agent) : Word :=
  field 0 11 x.quota ||| field 16 7 x.claimLimit ||| flag 24 x.enable ||| field 28 2 x.state.number

/-- Queue Configuration (R41). -/
def queueConfigurationWord (x : Queue) : Half → Word
  | .first =>
    field 0 3 x.consumer.val ||| field 4 3 x.limit ||| field 8 8 x.permission.toNat |||
      field 16 16 x.timeout.toNat
  | .second => field 0 11 x.depth ||| field 16 11 x.threshold

/-- Queue Status (R42). -/
def queueStatusWord (s : State) (q : QueueId) : Half → Word
  | .first =>
    field 0 3 (s.queue q).state.number ||| field 4 11 (queuedCount s q) |||
      field 16 11 (claimCount s q)
  | .second => field 0 16 (s.queue q).discards

/-! ## Plain reads -/

/-- What a plain read of an agent page returns: a register's word, and 0 from a port that acts only on a
write and from an empty offset (R162, R164). A place whose read is a command is not read so. -/
def readAgentPlace (s : State) (a : AgentId) (x : AgentPlace) : Word :=
  match x with
  | .noticeDetail => (s.agent a).noticeDetail
  | .stagingDestination => stagingDestinationWord (s.agent a).staging
  | .stagingAttributes => stagingAttributesWord (s.agent a).staging
  | .stagingLength => stagingLengthWord (s.agent a).staging
  | .deliveryHandle => deliveryHandleWord (s.agent a).delivery
  | .deliveryAttributes => deliveryAttributesWord (s.agent a).delivery
  | .deliveryLength => deliveryLengthWord (s.agent a).delivery
  | .lastResult => lastResultWord (s.agent a).last
  | .lastOperand => (s.agent a).last.operand
  | .agentStatus => agentStatusWord (s.agent a)
  | .readySet => readySetWord s a
  | .interruptEnable => interruptEnableWord (s.agent a)
  | .controllerStatus => controllerStatusWord s
  | .receive _ | .receiveAny | .alloc _ | .notice | .post | .reply | .free | .complete | .take
  | .release | .bind | .command | .aperture _ | .empty => 0

/-- What a plain read of the control page returns (R166). -/
def readControlPlace (s : State) (x : ControlPlace) : Word :=
  match x with
  | .controllerStatus => controllerStatusWord s
  | .controlResult => controlResultWord s.controlResult
  | .timebasePrescaler => field 0 17 s.prescaler
  | .timebaseCount => field 0 16 s.timebase.toNat
  | .deadLetterSelection => selectionWord s.deadLetter
  | .supervisorEventDetail => s.eventDetail
  | .supervisorInterruptEnable => flag 0 s.supervisorEnable
  | .poolDefinition p => poolWord (s.pool p)
  | .poolStatus p half => poolStatusWord s p half
  | .agentConfiguration a => agentConfigurationWord (s.agent a)
  | .groupMemberSet g => s.group g
  | .queueConfiguration q half => queueConfigurationWord (s.queue q) half
  | .queueStatus q half => queueStatusWord s q half
  | .controlCommand | .supervisorEvent | .empty => 0

/-- What a plain read of a place returns (R162). -/
def readPlace (s : State) (x : Place) : Word :=
  match x with
  | .agent a x => readAgentPlace s a x
  | .control x => readControlPlace s x
  | .undecoded => 0

/-- A plain read of a place through a port (R118, R150, R163): while the port's reset line is asserted it is
held without ready; in INIT it returns 0; otherwise it returns the place's word. -/
def plainRead (p : Port) (x : Place) (s : State) : State :=
  if s.resetLine p then s.setHeldAccesses p (s.heldAccesses p ++ [.read x])
  else s.returns p (if s.controller = .init then 0 else readPlace s x)

/-- What a bus access comes to. -/
inductive BusResult where
  /-- The access is a command, to be put in the queue. -/
  | command (c : Instr)
  /-- The access is a plain read, which leaves this state. -/
  | read (t : State)
  deriving DecidableEq, Repr

/-- What a bus access comes to in a state. -/
def State.access (s : State) (x : BusAccess) : BusResult :=
  match x.command fun a => (s.agent a).staging.kind with
  | some c => .command c
  | none => .read (plainRead x.port x.place s)

end Sys2Proof.Machine
end

