-- ==== Sys2Proof/Machine/Pins.lean ====
section
/-!
DEFINITION. PORST_ASSERT, PORST_RELEASE, INITIALISATION_END, PORT_RESET_ASSERT, PORT_RESET_RELEASE and
IGNORED_WRITE (R118, R150, R162).
-/

namespace Sys2Proof.Machine

/-- IGNORED_WRITE (R162, R164, R166). A place that takes writes is no place of this row (DESIGN CHOICE, log
entry 10, safe). -/
def execIgnoredWrite (port : Port) (page : BitVec 4) (offset : BitVec 10) (w : Word) (s : State) : Out :=
  if ignoresWrites (place port page offset) then
    writeAccess port (.ignoredWrite port page offset w) id s
  else .refused .illFormed

/-- PORST_ASSERT (R150): everything in flight is abandoned, the accesses the ports hold among it, and
every block takes its power-on values. Frame memory is cleared by initialisation; the port reset lines
are inputs and keep their levels, and so do the data lines. DEDUCED (log entry 20), unsafe. -/
def execPorstAssert (s : State) : Out :=
  .next
    { State.reset with
      controller := .init
      porst := true
      rstA := s.rstA
      rstB := s.rstB
      dataA := s.dataA
      dataB := s.dataB
      mem := s.mem
      draws := s.draws
      pending := s.pending }

/-- PORST_RELEASE (R150): initialisation runs, in INIT. -/
def execPorstRelease (s : State) : Out := .next { s with porst := false }

/-- INITIALISATION_END (R150). Frame memory is clear (DESIGN CHOICE, log entry 18, safe). With no
initialisation running nothing ends (DESIGN CHOICE, log entry 1, safe). -/
def execInitialisationEnd (s : State) : Out :=
  if s.controller = .init ∧ s.porst = false then .next { s with controller := .config, mem := [] }
  else .next s

/-- The agents of a port in ascending number (R162). -/
def portAgents (p : Port) : List AgentId := (List.finRange 8).filter fun a => agentPort a == p

/-- An agent that is ONLINE when its port's reset line is asserted begins its retire (R118). -/
def retireForPort (s : State) (a : AgentId) : State :=
  if (s.agent a).state = .online then beginRetire a .portReset s else s

/-- PORT_RESET_ASSERT (R118): a line that is already asserted does not change. -/
def execPortResetAssert (p : Port) (s : State) : Out :=
  if s.resetLine p then .next s
  else .next ((portAgents p).foldl retireForPort (s.setResetLine p true))

/-- A held command is taken (R118). Only accesses are held; the part's own steps and the pins are not. -/
def takeCommand (c : Instr) (s : State) : Out :=
  match c with
  | .alloc a p => execAlloc a p s
  | .receive a q => execReceive a q s
  | .receiveAny a => execReceiveAny a s
  | .post a h => execPost a h s
  | .postToGroup a h => execPostToGroup a h s
  | .reply a h => execReply a h s
  | .free a h => execFree a h s
  | .complete a h => execComplete a h s
  | .take a h => execTake a h s
  | .release a h => execRelease a h s
  | .bindWrite a h => execBindWrite a h s
  | .bindRead a => execBindRead a s
  | .attach a => execAttach a s
  | .detach a => execDetach a s
  | .openQueue r q => execOpen r q s
  | .pause r q => execPause r q s
  | .resume r q => execResume r q s
  | .drain r q => execDrain r q s
  | .flush r q => execFlush r q s
  | .unknownAgentCommand a code => execUnknownAgentCommand a code s
  | .notice a => execNotice a s
  | .stagingDestination a w => execStagingDestination a w s
  | .stagingAttributes a w => execStagingAttributes a w s
  | .stagingLength a w => execStagingLength a w s
  | .interruptEnable a w => execInterruptEnable a w s
  | .apertureRead a m lanes => execApertureRead a m lanes s
  | .apertureWrite a m lanes w => execApertureWrite a m lanes w s
  | .format => execFormat s
  | .restart => execRestart s
  | .disable q => execDisable q s
  | .retire a => execRetire a s
  | .clearDiscard q => execClearDiscard q s
  | .unknownControlCommand w => execUnknownControlCommand w s
  | .supervisorEvent => execSupervisorEvent s
  | .poolDefinition p w => execPoolDefinition p w s
  | .queueConfiguration q half w => execQueueConfiguration q half w s
  | .agentConfiguration a w => execAgentConfiguration a w s
  | .groupMemberSet g w => execGroupMemberSet g w s
  | .deadLetterSelection w => execDeadLetterSelection w s
  | .timebasePrescaler w => execTimebasePrescaler w s
  | .supervisorInterruptEnable w => execSupervisorInterruptEnable w s
  | .ignoredWrite port page offset w => execIgnoredWrite port page offset w s
  | .porstAssert | .porstRelease | .initialisationEnd | .portResetAssert _ | .portResetRelease _
  | .tick | .claimExpiry | .formatBuildStep | .formatCompletion | .scrubCompletion | .flushStep _
  | .retireClaimStep _ | .retireFreeStep _ => .next s

/-- A held access of the port is taken (R118, R163). -/
def takeHeld (p : Port) (c : HeldAccess) (s : State) : Out :=
  match c with
  | .command c => takeCommand c s
  | .read x => .next (plainRead p x s)

/-- The held accesses of the port are taken one after the other (R118). -/
def takeHeldAll (p : Port) : List HeldAccess → State → Out
  | [], s => .next s
  | c :: rest, s =>
    match takeHeld p c s with
    | .next s' => takeHeldAll p rest s'
    | .fault r => .fault r
    | .refused r => .refused r

/-- PORT_RESET_RELEASE (R118): the port takes accesses again, starting with those held. All of them are
taken within this step, in the order presented: DESIGN CHOICE (log entry 6), unsafe. -/
def execPortResetRelease (p : Port) (s : State) : Out :=
  takeHeldAll p (s.heldAccesses p) ((s.setResetLine p false).setHeldAccesses p [])

end Sys2Proof.Machine
end

