-- ==== Sys2Proof/Machine/Timer.lean ====
section
/-!
DEFINITION. The claim timer: TICK, CLAIM_EXPIRY, and one TCLK period
(05_claim_expiry_redelivery_and_the_dead_letter_queu.md).
-/

namespace Sys2Proof.Machine

/-- The divider counts: initialisation has ended (R79, R150), and every expiry handed over at the latest
tick has been taken or withdrawn (R84). -/
def dividerCounts (s : State) : Bool := s.controller != .init && s.handedOver.isEmpty

/-- One tick (R79, R80, R84): the divider starts again, the count advances, the stored prescaler comes
into force, and the due entries at the front of the deadline list are handed over. -/
def tickNow (s : State) : State :=
  let count := s.timebase + 1
  { s with
    divider := 0
    timebase := count
    tickLength := s.prescaler
    handedOver := s.deadlines.takeWhile fun e => (s.entry e).deadline == some count }

/-- TICK (R79): what remains of the tick in progress passes, and the tick occurs. While the divider does
not count, no tick occurs. That the row is the end of the tick in progress is DESIGN CHOICE (log entry 2),
unsafe. -/
def execTick (s : State) : Out := .next (if dividerCounts s then tickNow s else s)

/-- One TCLK period (R79). -/
def clockPeriod (s : State) : State :=
  if dividerCounts s then
    if s.tickLength ≤ s.divider + 1 then tickNow s else { s with divider := s.divider + 1 }
  else s

/-- The CLAIM_EXPIRED notice of an entry (R91), with the count it will have after the redelivery path. -/
def claimExpired (s : State) (e : EntryId) : Notice :=
  let x := s.entry e
  { kind := .claimExpired, queue := x.home, count := (returnCount s e).getD x.redeliveries,
    outcome := .none, handle := some (handleOf s x.frame) }

/-- The expiry of agent `a`'s claim `e` (R85). -/
def expireClaim (a : AgentId) (e : EntryId) (s : State) : State :=
  let s := unbindWithoutClaim a (s.entry e).frame (endClaim a e s)
  redeliver e .expired (offerNotice a (claimExpired s e) s)

/-- CLAIM_EXPIRY (R84, R85): the first expiry handed over is taken. With none handed over there is none to
take (DESIGN CHOICE, log entry 1, safe). An entry that is no claim has no expiry (R84): it is withdrawn
(DEDUCED, log entry 30, safe). -/
def execClaimExpiry (s : State) : Out :=
  match s.handedOver with
  | [] => .next s
  | e :: _ =>
    match (s.entry e).claimant with
    | some a => .next (expireClaim a e s)
    | none => .next (leaveDeadlines e s)

end Sys2Proof.Machine
end

