-- ==== Sys2Proof/Machine/Dispatch.lean ====
section
/-! DEFINITION. Each command's meaning. -/

namespace Sys2Proof.Machine

def exec (i : Instr) (s : State) : Host.Outcome State Fault Refusal :=
  match i with
  | .alloc a p => Sys2Proof.Machine.execAlloc a p s
  | .receive a q => Sys2Proof.Machine.execReceive a q s
  | .receiveAny a => Sys2Proof.Machine.execReceiveAny a s
  | .post a h => Sys2Proof.Machine.execPost a h s
  | .postToGroup a h => Sys2Proof.Machine.execPostToGroup a h s
  | .reply a h => Sys2Proof.Machine.execReply a h s
  | .free a h => Sys2Proof.Machine.execFree a h s
  | .complete a h => Sys2Proof.Machine.execComplete a h s
  | .take a h => Sys2Proof.Machine.execTake a h s
  | .release a h => Sys2Proof.Machine.execRelease a h s
  | .bindWrite a h => Sys2Proof.Machine.execBindWrite a h s
  | .bindRead a => Sys2Proof.Machine.execBindRead a s
  | .attach a => Sys2Proof.Machine.execAttach a s
  | .detach a => Sys2Proof.Machine.execDetach a s
  | .openQueue r q => Sys2Proof.Machine.execOpen r q s
  | .pause r q => Sys2Proof.Machine.execPause r q s
  | .resume r q => Sys2Proof.Machine.execResume r q s
  | .drain r q => Sys2Proof.Machine.execDrain r q s
  | .flush r q => Sys2Proof.Machine.execFlush r q s
  | .unknownAgentCommand a code => Sys2Proof.Machine.execUnknownAgentCommand a code s
  | .notice a => Sys2Proof.Machine.execNotice a s
  | .stagingDestination a w => Sys2Proof.Machine.execStagingDestination a w s
  | .stagingAttributes a w => Sys2Proof.Machine.execStagingAttributes a w s
  | .stagingLength a w => Sys2Proof.Machine.execStagingLength a w s
  | .interruptEnable a w => Sys2Proof.Machine.execInterruptEnable a w s
  | .apertureRead a m lanes => Sys2Proof.Machine.execApertureRead a m lanes s
  | .apertureWrite a m lanes w => Sys2Proof.Machine.execApertureWrite a m lanes w s
  | .format => Sys2Proof.Machine.execFormat s
  | .restart => Sys2Proof.Machine.execRestart s
  | .disable q => Sys2Proof.Machine.execDisable q s
  | .retire a => Sys2Proof.Machine.execRetire a s
  | .clearDiscard q => Sys2Proof.Machine.execClearDiscard q s
  | .unknownControlCommand w => Sys2Proof.Machine.execUnknownControlCommand w s
  | .supervisorEvent => Sys2Proof.Machine.execSupervisorEvent s
  | .poolDefinition p w => Sys2Proof.Machine.execPoolDefinition p w s
  | .queueConfiguration q half w => Sys2Proof.Machine.execQueueConfiguration q half w s
  | .agentConfiguration a w => Sys2Proof.Machine.execAgentConfiguration a w s
  | .groupMemberSet g w => Sys2Proof.Machine.execGroupMemberSet g w s
  | .deadLetterSelection w => Sys2Proof.Machine.execDeadLetterSelection w s
  | .timebasePrescaler w => Sys2Proof.Machine.execTimebasePrescaler w s
  | .supervisorInterruptEnable w => Sys2Proof.Machine.execSupervisorInterruptEnable w s
  | .ignoredWrite port page offset w => Sys2Proof.Machine.execIgnoredWrite port page offset w s
  | .porstAssert => Sys2Proof.Machine.execPorstAssert s
  | .porstRelease => Sys2Proof.Machine.execPorstRelease s
  | .initialisationEnd => Sys2Proof.Machine.execInitialisationEnd s
  | .portResetAssert port => Sys2Proof.Machine.execPortResetAssert port s
  | .portResetRelease port => Sys2Proof.Machine.execPortResetRelease port s
  | .tick => Sys2Proof.Machine.execTick s
  | .claimExpiry => Sys2Proof.Machine.execClaimExpiry s
  | .formatBuildStep => Sys2Proof.Machine.execFormatBuildStep s
  | .formatCompletion => Sys2Proof.Machine.execFormatCompletion s
  | .scrubCompletion => Sys2Proof.Machine.execScrubCompletion s
  | .flushStep q => Sys2Proof.Machine.execFlushStep q s
  | .retireClaimStep a => Sys2Proof.Machine.execRetireClaimStep a s
  | .retireFreeStep a => Sys2Proof.Machine.execRetireFreeStep a s

end Sys2Proof.Machine
end

