-- ==== Sys2Proof/Machine/Step.lean ====
section
/-!
DEFINITION. One step: the command at the front of the queue, or one TCLK period on an empty queue.
-/

namespace Sys2Proof.Machine

/-- One step. One queue for the requests of every sender is DESIGN CHOICE (log entry 23), safe; one TCLK
period on an empty queue is DESIGN CHOICE (log entry 2), unsafe. -/
def step (s : State) : Host.Outcome State Fault Refusal :=
  match s.pending with
  | c :: rest => exec c { s with pending := rest }
  | [] => .next (clockPeriod s)

/-- The state with the command a table word spells put at the front of its queue. -/
def State.withFetchWord (s : State) (nbits w : Nat) : State :=
  match decodeTableWord nbits w with
  | some c => { s with pending := c :: s.pending }
  | none => s

end Sys2Proof.Machine
end

