-- ==== Sys2Proof/WellFormed.lean ====
section
/-!
DEFINITION. Which terms of `Instr` spell a command of their row. Agent, pool, queue and group numbers
are in range by their types; three rows name what is NOT something else, and are checked here.
-/

namespace Sys2Proof

/-- The term spells a command of its row: an unknown command's word names no command (R112, R152), and
an ignored write goes to a place that ignores writes (R162). -/
def WellFormed : Instr → Bool
  | .unknownAgentCommand a code => (agentCommand a code 0).isNone
  | .unknownControlCommand w => (controlCommandOf w).isNone
  | .ignoredWrite port page offset _ => ignoresWrites (place port page offset)
  | .alloc _ _ | .receive _ _ | .receiveAny _ | .post _ _ | .postToGroup _ _ | .reply _ _
  | .free _ _ | .complete _ _ | .take _ _ | .release _ _ | .bindWrite _ _ | .bindRead _
  | .attach _ | .detach _ | .openQueue _ _ | .pause _ _ | .resume _ _ | .drain _ _ | .flush _ _
  | .notice _ | .stagingDestination _ _ | .stagingAttributes _ _ | .stagingLength _ _
  | .interruptEnable _ _ | .apertureRead _ _ _ | .apertureWrite _ _ _ _ | .format | .restart
  | .disable _ | .retire _ | .clearDiscard _ | .supervisorEvent | .poolDefinition _ _
  | .queueConfiguration _ _ _ | .agentConfiguration _ _ | .groupMemberSet _ _
  | .deadLetterSelection _ | .timebasePrescaler _ | .supervisorInterruptEnable _ | .porstAssert
  | .porstRelease | .initialisationEnd | .portResetAssert _ | .portResetRelease _ | .tick
  | .claimExpiry | .formatBuildStep | .formatCompletion | .scrubCompletion | .flushStep _
  | .retireClaimStep _ | .retireFreeStep _ => true

end Sys2Proof
end

