-- ==== Sys2Proof/Safety.lean ====
section
/-!
DEFINITION. When the part serves an access, and what holds of a sound state: the laws that the spec states
of the whole part, which every command keeps.
-/

namespace Sys2Proof.Machine

/-! ## When an access is served -/

/-- The port takes accesses and initialisation has ended (R118, R150). -/
abbrev PortTakes (s : State) (p : Port) : Prop := s.resetLine p = false ∧ s.controller ≠ .init

/-- The agent's action ports pass the common prefix (R111) and its port takes accesses. -/
abbrev Serves (s : State) (a : AgentId) : Prop :=
  s.resetLine (agentPort a) = false ∧ s.controller = .running ∧ (s.agent a).state = .online

/-- The sum of the agent's held count and claim count is below its quota (R66). -/
abbrev BelowQuota (s : State) (a : AgentId) : Prop :=
  (s.agent a).held.length + (s.agent a).claims.length < (s.agent a).quota

/-- The word is a handle of the current generation of a frame of the table that is HELD or POSTED: it
passes the handle check (R9). -/
abbrev NamesFrame (s : State) (h : Word) : Prop :=
  handleWellFormed h = true ∧ (handleIndex h).val < s.activeTotal ∧
    handleGeneration h = (s.frame (handleIndex h)).generation ∧
    ((s.frame (handleIndex h)).state = .held ∨ (s.frame (handleIndex h)).state = .posted)

/-- The handle names a frame HELD by the agent. -/
abbrev Holds (s : State) (a : AgentId) (h : Word) : Prop :=
  NamesFrame s h ∧ (s.frame (handleIndex h)).state = .held ∧
    (s.frame (handleIndex h)).holder = some a

/-- The queue passes the destination test of a post by the agent (R49). -/
abbrev TakesPosts (s : State) (a : AgentId) (q : QueueId) : Prop :=
  ((s.queue q).state = .open ∨ (s.queue q).state = .paused) ∧
    (s.queue q).permission.getLsbD a.val = true ∧
    queuedCount s q + claimCount s q < (s.queue q).depth

/-! ## Frame memory -/

/-- Frame memory is in its canonical form. -/
abbrev MemoryLaw (s : State) : Prop := s.mem.wf

/-! ## Outside RUNNING there is no traffic -/

/-- R108, R151, R84, R149: outside RUNNING every agent is OFFLINE, every queue DISABLED, the deadline
list and the scrub list are empty and the active frame total is 0. PORST# holds the part in INIT (R150). At
most 16 supervisor events wait (R142). -/
def ControllerLaw (s : State) : Prop :=
  (s.controller ≠ .running →
    (∀ a, (s.agent a).state = .offline) ∧ (∀ q, (s.queue q).state = .disabled) ∧
      s.deadlines = [] ∧ s.handedOver = [] ∧ s.scrubList = [] ∧ s.activeTotal = 0) ∧
  (s.porst = true → s.controller = .init) ∧ s.events.length ≤ 16

/-! ## Agents -/

/-- What holds of one agent context (R108 to R110, R114, R126, R136, R141). -/
structure AgentSound (x : Agent) : Prop where
  quota_range : 1 ≤ x.quota ∧ x.quota ≤ 1024
  limit_range : 1 ≤ x.claimLimit ∧ x.claimLimit ≤ 64
  within_quota : x.held.length + x.claims.length ≤ x.quota
  within_limit : x.claims.length ≤ x.claimLimit
  offline_empty : x.state = .offline → x.held = [] ∧ x.claims = []
  leaving : x.state ≠ .online → x.binding = none ∧ x.notices = [] ∧ x.lost = false
  cause_present : x.cause.isSome = true ↔ x.state = .retiring
  notices_bounded : x.notices.length ≤ 16

/-- Every agent context is sound. -/
def AgentLaw (s : State) : Prop := ∀ a, AgentSound (s.agent a)

/-- R126: a bound handle names a frame, at its current generation, that the agent holds or claims. -/
def BindingLaw (s : State) : Prop :=
  ∀ a h, (s.agent a).binding = some h → NamesFrame s h ∧
    ((s.frame (handleIndex h)).state = .held ∧ (s.frame (handleIndex h)).holder = some a ∨
      ∃ e ∈ (s.agent a).claims, (s.entry e).frame = handleIndex h)

/-! ## Queues -/

/-- What holds of one queue record (R24, R32, R33, R39, R41, R96). -/
structure QueueSound (x : Queue) : Prop where
  depth_range : 1 ≤ x.depth ∧ x.depth ≤ 1024
  threshold_range : 1 ≤ x.threshold ∧ x.threshold ≤ x.depth
  limit_range : x.limit ≤ 7
  discards_range : x.discards ≤ 65535
  requester_present : x.requester.isSome = true ↔ x.state = .draining ∨ x.state = .flushing
  closed_empty : x.state = .closed ∨ x.state = .disabled → x.urgent = [] ∧ x.normal = []
  flush_idle : x.state ≠ .flushing → x.flushCount = 0

/-- Every queue record is sound. -/
def QueueLaw (s : State) : Prop := ∀ q, QueueSound (s.queue q)

/-! ## The frame table and its layout -/

/-- The entries that some list of a queue, of an agent or of the claim timer holds. -/
def Listed (s : State) (e : EntryId) : Prop :=
  (∃ q, e ∈ (s.queue q).urgent ∨ e ∈ (s.queue q).normal) ∨ (∃ a, e ∈ (s.agent a).claims) ∨
    e ∈ s.deadlines ∨ e ∈ s.handedOver

/-- R2, R10, R16, R115, R155, R156, R161: the definitions in use fit frame memory, the table holds the
records of the indices below `built`, each in the pool its index falls in, and every list names frames of
the table only. -/
structure FrameTableLaw (s : State) : Prop where
  fits : s.controller = .formatting ∨ s.controller = .running →
    frameTotal s ≤ 1024 ∧ layoutBytes s ≤ 131072
  progress : s.built ≤ frameTotal s
  empty : s.controller = .init ∨ s.controller = .config → s.built = 0
  complete : s.controller = .running → s.built = frameTotal s ∧ s.activeTotal = frameTotal s
  pools_match : ∀ f : FrameIdx, f.val < s.built → (s.frame f).pool = poolOfIndex s f.val
  in_table : ∀ f : FrameIdx, (s.frame f).state ≠ .free → f.val < s.built
  free_in_table : ∀ p, ∀ f ∈ s.freeList p, f.val < s.built
  scrub_in_table : ∀ f ∈ s.scrubList, f.val < s.built
  held_in_table : ∀ a, ∀ f ∈ (s.agent a).held, f.val < s.built
  entries_in_table : ∀ e, Listed s e → (s.entry e).frame.val < s.built

/-! ## Entries -/

/-- The entries in use: those queued in some queue and those on some claim list. -/
def liveEntries (s : State) : List EntryId :=
  ((List.finRange 32).flatMap fun q => (s.queue q).urgent ++ (s.queue q).normal) ++
    (List.finRange 8).flatMap fun a => (s.agent a).claims

/-- Every list that an entry can stand on, one after the other: the free-entry list, the lists of the
queues, the claim lists of the agents. -/
def entryLists (s : State) : List EntryId := s.freeEntries ++ liveEntries s

/-- R22, R23, R25, R63: each of the 2048 entries stands on exactly one list, once, and its place, home
queue, class and claimant say which. -/
structure EntryLaw (s : State) : Prop where
  once : (entryLists s).Perm (List.finRange 2048)
  free_place : ∀ e ∈ s.freeEntries, (s.entry e).place = .free ∧ (s.entry e).claimant = none
  urgent_place : ∀ q, ∀ e ∈ (s.queue q).urgent,
    (s.entry e).place = .queued ∧ (s.entry e).home = q ∧ (s.entry e).cls = .urgent ∧
      (s.entry e).claimant = none
  normal_place : ∀ q, ∀ e ∈ (s.queue q).normal,
    (s.entry e).place = .queued ∧ (s.entry e).home = q ∧ (s.entry e).cls = .normal ∧
      (s.entry e).claimant = none
  claimed_place : ∀ a, ∀ e ∈ (s.agent a).claims,
    (s.entry e).place = .claimed ∧ (s.entry e).claimant = some a

/-- R28, R39, R86, R96, R99: no queue's queued count plus claim count exceeds its depth limit, nor do they
with the entries that its flush has dropped; a DISABLED queue has no claims; a DRAINING queue has an entry
queued or claimed; no entry's redelivery count exceeds the limit of its home queue. -/
structure DepthLaw (s : State) : Prop where
  within : ∀ q, (s.queue q).flushCount + queuedCount s q + claimCount s q ≤ (s.queue q).depth
  disabled_unclaimed : ∀ q, (s.queue q).state = .disabled → claimCount s q = 0
  draining_used : ∀ q, (s.queue q).state = .draining → 0 < queuedCount s q + claimCount s q
  redeliveries_within : ∀ e ∈ liveEntries s,
    (s.entry e).redeliveries ≤ (s.queue (s.entry e).home).limit

/-! ## References -/

/-- R5, R10, R16, R115: a frame's reference count is the number of entries that refer to it, plus one if it
is HELD; a HELD frame has no other reference; the count is 0 exactly when the frame is FREE or SCRUB; and
the held lists, the free lists and the scrub list hold exactly the frames in those states, each once. R29: at
most one entry of a home queue refers to a frame. -/
structure ReferenceLaw (s : State) : Prop where
  counted : ∀ f, (s.frame f).refs =
    (liveEntries s).countP (fun e => (s.entry e).frame == f) +
      if (s.frame f).state = .held then 1 else 0
  held_alone : ∀ f, (s.frame f).state = .held → (s.frame f).refs = 1
  zero : ∀ f, (s.frame f).refs = 0 ↔ (s.frame f).state = .free ∨ (s.frame f).state = .scrub
  holder_present : ∀ f, (s.frame f).holder.isSome = true ↔ (s.frame f).state = .held
  held_list : ∀ a f, f ∈ (s.agent a).held ↔
    (s.frame f).state = .held ∧ (s.frame f).holder = some a
  held_once : ∀ a, (s.agent a).held.Nodup
  free_list : ∀ p f, f ∈ s.freeList p ↔
    f.val < s.built ∧ (s.frame f).pool = p ∧ (s.frame f).state = .free
  free_once : ∀ p, (s.freeList p).Nodup
  scrub_list : ∀ f, f ∈ s.scrubList ↔ (s.frame f).state = .scrub
  scrub_once : s.scrubList.Nodup
  one_a_queue : ∀ x ∈ liveEntries s, ∀ y ∈ liveEntries s,
    (s.entry x).home = (s.entry y).home → (s.entry x).frame = (s.entry y).frame → x = y

/-! ## Deadlines -/

/-- R21, R82, R84: the deadline list holds each claimed entry that carries a deadline, once, and no other
entry; the expiries handed over stand at its front and are due at the present count; the others stand in
the order in which they fall due. -/
structure DeadlineLaw (s : State) : Prop where
  once : s.deadlines.Nodup
  carried : ∀ e, e ∈ s.deadlines ↔ (s.entry e).deadline.isSome = true
  claimed : ∀ e ∈ s.deadlines, (s.entry e).place = .claimed
  front : s.handedOver <+: s.deadlines
  due : ∀ e ∈ s.handedOver, (s.entry e).deadline = some s.timebase
  ordered : (s.deadlines.drop s.handedOver.length).Pairwise
    fun x y => deadlineDistance s x ≤ deadlineDistance s y

/-! ## Accesses -/

/-- The port that an access arrives on; `none` for the pins and the part's own steps. -/
def accessPort : Instr → Option Port
  | .alloc a _ | .receive a _ | .receiveAny a | .post a _ | .postToGroup a _ | .reply a _
  | .free a _ | .complete a _ | .take a _ | .release a _ | .bindWrite a _ | .bindRead a
  | .attach a | .detach a | .unknownAgentCommand a _ | .notice a | .stagingDestination a _
  | .stagingAttributes a _ | .stagingLength a _ | .interruptEnable a _ | .apertureRead a _ _
  | .apertureWrite a _ _ _ => some (agentPort a)
  | .openQueue r _ | .pause r _ | .resume r _ | .drain r _ | .flush r _ => some (requesterPort r)
  | .format | .restart | .disable _ | .retire _ | .clearDiscard _ | .unknownControlCommand _
  | .supervisorEvent | .poolDefinition _ _ | .queueConfiguration _ _ _ | .agentConfiguration _ _
  | .groupMemberSet _ _ | .deadLetterSelection _ | .timebasePrescaler _
  | .supervisorInterruptEnable _ => some .a
  | .ignoredWrite port _ _ _ => some port
  | .porstAssert | .porstRelease | .initialisationEnd | .portResetAssert _ | .portResetRelease _
  | .tick | .claimExpiry | .formatBuildStep | .formatCompletion | .scrubCompletion | .flushStep _
  | .retireClaimStep _ | .retireFreeStep _ => none

/-- The access is a read: it returns a word. -/
def isRead : Instr → Bool
  | .alloc _ _ | .receive _ _ | .receiveAny _ | .bindRead _ | .notice _ | .apertureRead _ _ _
  | .supervisorEvent => true
  | .post _ _ | .postToGroup _ _ | .reply _ _ | .free _ _ | .complete _ _ | .take _ _
  | .release _ _ | .bindWrite _ _ | .attach _ | .detach _ | .openQueue _ _ | .pause _ _
  | .resume _ _ | .drain _ _ | .flush _ _ | .unknownAgentCommand _ _ | .stagingDestination _ _
  | .stagingAttributes _ _ | .stagingLength _ _ | .interruptEnable _ _ | .apertureWrite _ _ _ _
  | .format | .restart | .disable _ | .retire _ | .clearDiscard _ | .unknownControlCommand _
  | .poolDefinition _ _ | .queueConfiguration _ _ _ | .agentConfiguration _ _
  | .groupMemberSet _ _ | .deadLetterSelection _ | .timebasePrescaler _
  | .supervisorInterruptEnable _ | .ignoredWrite _ _ _ _ | .porstAssert | .porstRelease
  | .initialisationEnd | .portResetAssert _ | .portResetRelease _ | .tick | .claimExpiry
  | .formatBuildStep | .formatCompletion | .scrubCompletion | .flushStep _ | .retireClaimStep _
  | .retireFreeStep _ => false

/-- Accesses that port `p` held, taken one after the other, up to the first that stops (R118, R163). -/
def execAll (p : Port) : List HeldAccess → State → Out
  | [], s => .next s
  | .read x :: rest, s => execAll p rest (plainRead p x s)
  | .command c :: rest, s =>
    match exec c s with
    | .next t => execAll p rest t
    | .fault r => .fault r
    | .refused r => .refused r

/-- R118: a port holds accesses only while its reset line is asserted, and each command among them is an
access of that port and spells a command. -/
def HeldLaw (s : State) : Prop :=
  ∀ p, (s.resetLine p = false → s.heldAccesses p = []) ∧
    ∀ c, .command c ∈ s.heldAccesses p → WellFormed c = true ∧ accessPort c = some p

/-! ## What a command changes

`Only… s t i x`: of the records of that table, `t` differs from `s` in record `i` at most, which is `x`. -/

abbrev OnlyAgent (s t : State) (a : AgentId) (x : Agent) : Prop :=
  ∀ b, t.agent b = if b = a then x else s.agent b

abbrev OnlyQueue (s t : State) (q : QueueId) (x : Queue) : Prop :=
  ∀ r, t.queue r = if r = q then x else s.queue r

abbrev OnlyFrame (s t : State) (f : FrameIdx) (x : Frame) : Prop :=
  ∀ g, t.frame g = if g = f then x else s.frame g

abbrev OnlyEntry (s t : State) (e : EntryId) (x : Entry) : Prop :=
  ∀ d, t.entry d = if d = e then x else s.entry d

abbrev OnlyPool (s t : State) (p : PoolId) (x : Pool) : Prop :=
  ∀ r, t.pool r = if r = p then x else s.pool r

abbrev OnlyFreeList (s t : State) (p : PoolId) (l : List FrameIdx) : Prop :=
  ∀ r, t.freeList r = if r = p then l else s.freeList r

/-- The data lines of one port at most differ. -/
abbrev OnlyData (s t : State) (p : Port) (w : Word) : Prop :=
  ∀ i, t.data i = if i = p then w else s.data i

/-- An agent context after a notice is offered to it (R136). -/
def noticed (x : Agent) (n : Notice) : Agent :=
  if x.state = .online then
    if x.notices.length < 16 then { x with notices := x.notices ++ [n] } else { x with lost := true }
  else x

/-- The supervisor event list takes a record, or loses it (R142). -/
def EventOffered (s t : State) (e : SupervisorEvent) : Prop :=
  if s.events.length < 16 then t.events = s.events ++ [e] ∧ t.eventsLost = s.eventsLost
  else t.events = s.events ∧ t.eventsLost = true

/-- A frame whose record has become `x`, with reference count 0, goes down the free path (R15): with the
scrub flag of its pool set it joins the scrub list as SCRUB; otherwise its generation advances, it joins
its free list as FREE, and the pool re-arms if its free count has reached the low-water mark (R18). -/
def TakesFreePath (s t : State) (f : FrameIdx) (x : Frame) : Prop :=
  if (s.pool x.pool).scrub = true then
    OnlyFrame s t f { x with state := .scrub } ∧ t.scrubList = s.scrubList ++ [f] ∧
      t.freeLists = s.freeLists ∧ t.pools = s.pools
  else
    OnlyFrame s t f { x with state := .free, generation := x.generation + 1 } ∧
      t.scrubList = s.scrubList ∧ OnlyFreeList s t x.pool (s.freeList x.pool ++ [f]) ∧
      OnlyPool s t x.pool
        { s.pool x.pool with
          armed := (s.pool x.pool).armed ||
            decide ((s.pool x.pool).lowWater ≤ (s.freeList x.pool).length + 1) }

/-- One reference to a frame is dropped; the last takes it down the free path (R6). -/
def ReferenceDropped (s t : State) (f : FrameIdx) : Prop :=
  if (s.frame f).refs ≤ 1 then TakesFreePath s t f { s.frame f with refs := 0 }
  else
    OnlyFrame s t f { s.frame f with refs := (s.frame f).refs - 1 } ∧
      t.scrubList = s.scrubList ∧ t.freeLists = s.freeLists ∧ t.pools = s.pools

/-- The aperture binding of an agent when its claim `e` has ended: removed if it is bound to the frame and
no other claim of the agent refers to the frame (R132, R133). -/
def bindingLeft (s : State) (a : AgentId) (e : EntryId) : Option Word :=
  if boundTo s a (s.entry e).frame = true ∧
      ∀ d ∈ (s.agent a).claims.erase e, (s.entry d).frame ≠ (s.entry e).frame then none
  else (s.agent a).binding

/-- An agent context when its claim `e` has ended. -/
def withoutClaim (s : State) (a : AgentId) (e : EntryId) : Agent :=
  { s.agent a with claims := (s.agent a).claims.erase e, binding := bindingLeft s a e }

/-- The deadline of an entry leaves the deadline list, and an expiry handed over for it is withdrawn (R83,
R84). -/
abbrev DeadlineLeaves (s t : State) (e : EntryId) : Prop :=
  t.deadlines = s.deadlines.erase e ∧ t.handedOver = s.handedOver.erase e

/-- The agent's oldest claim on frame `f` is `e` (R70, R74). -/
def OldestClaim (s : State) (a : AgentId) (f : FrameIdx) (e : EntryId) : Prop :=
  ∃ l r, (s.agent a).claims = l ++ e :: r ∧ (s.entry e).frame = f ∧ ∀ x ∈ l, (s.entry x).frame ≠ f

/-- The front entry of a queue is `e`, and `y` is the queue without it (R26). -/
def FrontEntry (x : Queue) (e : EntryId) (y : Queue) : Prop :=
  (∃ rest, x.urgent = e :: rest ∧ y = { x with urgent := rest }) ∨
    (∃ rest, x.urgent = [] ∧ x.normal = e :: rest ∧ y = { x with normal := rest })

/-- An entry that has left a claim list, with the place it goes to. -/
def unclaimed (x : Entry) (place : EntryPlace) : Entry :=
  { x with place := place, claimant := none, deadline := none }

/-- The home queue of the entry is open to its return: it is OPEN, PAUSED or DRAINING (R86). -/
def TakesReturns (x : Queue) : Prop := x.state = .open ∨ x.state = .paused ∨ x.state = .draining

/-- The UNDELIVERED notice of an entry (R91), with the frame's handle as it stands. -/
def undeliveredNotice (s : State) (e : EntryId) (outcome : NoticeOutcome) : Notice :=
  { kind := .undelivered, queue := (s.entry e).home, count := 0, outcome := outcome,
    handle := some (formHandle (s.entry e).frame (s.frame (s.entry e).frame).generation) }

/-- The CLAIM_EXPIRED notice of an entry with redelivery count `n` after the expiry (R91). -/
def expiredNotice (s : State) (e : EntryId) (n : Nat) : Notice :=
  { kind := .claimExpired, queue := (s.entry e).home, count := n, outcome := .none,
    handle := some (formHandle (s.entry e).frame (s.frame (s.entry e).frame).generation) }

/-- The five conditions of a dead-letter move of entry `e` to queue `d` (R88). -/
def MayMoveTo (s : State) (e : EntryId) (d : QueueId) : Prop :=
  s.deadLetter = some d ∧ d ≠ (s.entry e).home ∧
    ((s.queue d).state = .open ∨ (s.queue d).state = .paused) ∧
    queuedCount s d + claimCount s d < (s.queue d).depth ∧
    ∀ x, x ∈ (s.queue d).urgent ∨ x ∈ (s.queue d).normal ∨
      (∃ a, x ∈ (s.agent a).claims ∧ (s.entry x).home = d) → (s.entry x).frame ≠ (s.entry e).frame

/-- The redelivery path drops the entry with notice: its home queue is CLOSED, or OPEN, PAUSED or DRAINING
with the entry at its redelivery limit and no dead-letter move possible (R86, R88). -/
def DropsWithNotice (s : State) (e : EntryId) : Prop :=
  (s.queue (s.entry e).home).state = .closed ∨
    TakesReturns (s.queue (s.entry e).home) ∧
      (s.queue (s.entry e).home).limit ≤ (s.entry e).redeliveries ∧ ∀ d, ¬ MayMoveTo s e d

/-! ### The ends of a claim

In each, the claim `e` of agent `a` has ended, the agent's context has become `x`, and nothing else has
changed but what the clauses name. -/

/-- The entry is back at the front of its class list, with redelivery count `n` (R87). -/
def Returned (s t : State) (a : AgentId) (x : Agent) (e : EntryId) (n : Nat) : Prop :=
  OnlyAgent s t a x ∧
  OnlyEntry s t e { unclaimed (s.entry e) .queued with redeliveries := n } ∧
  OnlyQueue s t (s.entry e).home
    (match (s.entry e).cls with
    | .urgent => { s.queue (s.entry e).home with urgent := e :: (s.queue (s.entry e).home).urgent }
    | .normal => { s.queue (s.entry e).home with normal := e :: (s.queue (s.entry e).home).normal }) ∧
  DeadlineLeaves s t e ∧
  { t with
    agents := s.agents, entries := s.entries, queues := s.queues, deadlines := s.deadlines,
    handedOver := s.handedOver } = s

/-- The agents, when `x` is the context of `a` and the frame's source agent has been offered UNDELIVERED
(R91). -/
abbrev SourceTold (s t : State) (a : AgentId) (x : Agent) (e : EntryId) (outcome : NoticeOutcome) : Prop :=
  ∀ b, t.agent b =
    let y := if b = a then x else s.agent b
    if b = (s.frame (s.entry e).frame).source then noticed y (undeliveredNotice s e outcome) else y

/-- The entry has gone to the tail of the normal list of queue `d`, and the source agent is told (R89). -/
def Moved (s t : State) (a : AgentId) (x : Agent) (e : EntryId) (d : QueueId) : Prop :=
  SourceTold s t a x e .deadLettered ∧
  OnlyEntry s t e
    { unclaimed (s.entry e) .queued with home := d, cls := .normal, redeliveries := 0 } ∧
  OnlyQueue s t d { s.queue d with normal := (s.queue d).normal ++ [e] } ∧
  DeadlineLeaves s t e ∧
  { t with
    agents := s.agents, entries := s.entries, queues := s.queues, deadlines := s.deadlines,
    handedOver := s.handedOver } = s

/-- The entry is free, at the tail of the free-entry list (log entry 14), its deadline gone and its reference
dropped; the agents and the queues are not spoken of. -/
def EntryFreed (s t : State) (e : EntryId) : Prop :=
  OnlyEntry s t e (unclaimed (s.entry e) .free) ∧ t.freeEntries = s.freeEntries ++ [e] ∧
  DeadlineLeaves s t e ∧ ReferenceDropped s t (s.entry e).frame ∧
  { t with
    agents := s.agents, queues := s.queues, entries := s.entries, freeEntries := s.freeEntries,
    deadlines := s.deadlines, handedOver := s.handedOver, frames := s.frames,
    freeLists := s.freeLists, scrubList := s.scrubList, pools := s.pools } = s

/-- The entry has been dropped with notice: the home queue's discard count has risen, saturating, and the
source agent is told (R90). -/
def DroppedWithNotice (s t : State) (a : AgentId) (x : Agent) (e : EntryId) : Prop :=
  SourceTold s t a x e .dropped ∧
  OnlyQueue s t (s.entry e).home
    { s.queue (s.entry e).home with
      discards := min ((s.queue (s.entry e).home).discards + 1) 65535 } ∧
  EntryFreed s t e

/-- The entry has been dropped into the flush count of its home queue; no one is told (R86, R103). -/
def DroppedIntoFlush (s t : State) (a : AgentId) (x : Agent) (e : EntryId) : Prop :=
  OnlyAgent s t a x ∧
  OnlyQueue s t (s.entry e).home
    { s.queue (s.entry e).home with flushCount := (s.queue (s.entry e).home).flushCount + 1 } ∧
  EntryFreed s t e

/-- The claim has been completed (R71). -/
def Completed (s t : State) (a : AgentId) (x : Agent) (e : EntryId) : Prop :=
  OnlyAgent s t a x ∧ t.queues = s.queues ∧ EntryFreed s t e

/-- The claim has become a hold of its frame: every other field of the frame record is kept (R72). -/
def Taken (s t : State) (a : AgentId) (x : Agent) (e : EntryId) : Prop :=
  OnlyAgent s t a x ∧
  OnlyFrame s t (s.entry e).frame { s.frame (s.entry e).frame with state := .held, holder := some a } ∧
  OnlyEntry s t e (unclaimed (s.entry e) .free) ∧ t.freeEntries = s.freeEntries ++ [e] ∧
  DeadlineLeaves s t e ∧
  { t with
    agents := s.agents, frames := s.frames, entries := s.entries, freeEntries := s.freeEntries,
    deadlines := s.deadlines, handedOver := s.handedOver } = s

/-! ### Drain completion -/

/-- The QUEUE_CLOSED notice of a queue (R100). -/
def closedNotice (q : QueueId) : Notice :=
  { kind := .queueClosed, queue := q, count := 0, outcome := .none, handle := none }

/-- A DRAINING queue is closed, its pending requester made absent, and QUEUE_CLOSED reported to the requester
`r` that it had (R99, R100). -/
def DrainCloses (s t : State) (q : QueueId) (r : Option Requester) : Prop :=
  OnlyQueue s t q { s.queue q with state := .closed, requester := none } ∧
  match r with
  | some (.agent b) =>
    OnlyAgent s t b (noticed (s.agent b) (closedNotice q)) ∧
      { t with queues := s.queues, agents := s.agents } = s
  | some .control =>
    EventOffered s t (.queueClosed q) ∧
      { t with queues := s.queues, events := s.events, eventsLost := s.eventsLost } = s
  | none => { t with queues := s.queues } = s

/-- Drain completion has been tested on a queue: it closes if it is DRAINING with no entry queued or claimed;
otherwise nothing has changed (R99). -/
def DrainTested (s t : State) (q : QueueId) : Prop :=
  if (s.queue q).state = .draining ∧ queuedCount s q = 0 ∧ claimCount s q = 0 then
    DrainCloses s t q (s.queue q).requester
  else t = s

/-! ## The checks in their order -/

/-- The answer of the common prefix (R111), `none` when it passes. -/
def prefixAnswer (s : State) (a : AgentId) : Option ResultCode :=
  if s.controller ≠ .running then some .notRunning
  else if (s.agent a).state = .offline then some .agentOffline
  else if (s.agent a).state = .retiring then some .retiring
  else none

/-- The answer of the handle check (R9), `none` when it passes. -/
def handleAnswer (s : State) (h : Word) : Option ResultCode :=
  let x := s.frame (h.extractLsb' 0 10).toFin
  if h.getLsbD 31 = false ∨ h.extractLsb' 21 10 ≠ 0 ∨ h.extractLsb' 10 6 ≠ 0 ∨
      s.activeTotal ≤ (h.extractLsb' 0 10).toNat then some .badHandle
  else if h.extractLsb' 16 5 ≠ x.generation ∨ x.state = .free ∨ x.state = .scrub then some .stale
  else none

/-- The answer of a destination queue (R49), `none` when it passes. -/
def destinationAnswer (s : State) (a : AgentId) (q : QueueId) : Option ResultCode :=
  if (s.queue q).state = .disabled then some .noQueue
  else if (s.queue q).permission.getLsbD a.val = false then some .notPermitted
  else if (s.queue q).state = .draining ∨ (s.queue q).state = .closed then some .queueClosed
  else if (s.queue q).state = .flushing then some .flushing
  else if queuedCount s q + claimCount s q = (s.queue q).depth then some .queueFull
  else none

/-- The first destination that does not pass, with its answer and its number (R48, R57). -/
def destinationsAnswer (s : State) (a : AgentId) (qs : List QueueId) : Option (ResultCode × Word) :=
  qs.findSome? fun q => (destinationAnswer s a q).map fun code => (code, BitVec.ofNat 32 q.val)

/-- The destinations that an agent has staged, in ascending order: its queue, or the members of its group.
None: the staged number names no group, or an empty one (R45, R57). -/
def destinations (s : State) (a : AgentId) : List QueueId :=
  match (s.agent a).staging.kind with
  | .queue => [(s.agent a).staging.number.toFin]
  | .group =>
    (List.finRange 32).filter fun q =>
      (List.finRange 8).any fun g =>
        decide (g.val = (s.agent a).staging.number.toNat) && (s.group g).getLsbD q.val

/-- The write to POST that the staged kind makes POST or POST_TO_GROUP (R48, R57). -/
def postCommand (s : State) (a : AgentId) (h : Word) : Instr :=
  match (s.agent a).staging.kind with
  | .queue => .post a h
  | .group => .postToGroup a h

/-! ## Queue commands -/

/-- A queue command of the page `r` on queue `q` passes the checks before its transition (R35, R36). -/
def CommandServed (s : State) (r : Requester) (q : QueueId) : Prop :=
  match r with
  | .agent a => Serves s a ∧ (s.queue q).state ≠ .disabled ∧ (s.queue q).consumer = a
  | .control => s.resetLine .a = false ∧ s.controller = .running

/-- The OK of a queue command, in the record of its page. -/
def commandOk (r : Requester) (q : QueueId) (action : Action) (code : Byte) (s : State) : State :=
  match r with
  | .agent a => s.answer a .ok action (BitVec.ofNat 32 q.val)
  | .control => s.controlAnswer .ok (.command code) q.val

/-- The five queue commands that both pages carry, each with the states it changes a queue from, its action
and its control code (R34, R165, R166). -/
def queueCommands (r : Requester) (q : QueueId) : List (Instr × List QueueState × Action × Byte) :=
  [(.openQueue r q, [.disabled, .closed], .open, 3), (.pause r q, [.open], .pause, 4),
   (.resume r q, [.paused], .resume, 5), (.drain r q, [.open, .paused], .drain, 6),
   (.flush r q, [.open, .paused, .draining, .closed], .flush, 7)]

end Sys2Proof.Machine
end

