-- ==== Sys2Proof/Certificates/Slice0/Obligations.lean ====
section
/-!
DEFINITION. The statements for the provers. `Only…`, the checks in their order and the laws are those of
Sys2Proof/Safety.lean. The last clause `{ t with … } = s` of a statement says that every field of the state
that it does not name is unchanged.
-/

section

open Sys2Proof Sys2Proof.Machine

/-! ## The step -/

/-- R163: the command at the front of the queue is taken whole, with the queue's rest. That one queue holds
the order of all commands is the model's choice (log entry 23). -/
def Obligations.StepRunsFrontCommand : Prop :=
  ∀ (s : State) (c : Instr) (rest : List Instr),
    step { s with pending := c :: rest } = exec c { s with pending := rest }

/-- R79, R84: on an empty queue one TCLK period passes. The divider counts it once initialisation has ended
and every expiry handed over has been taken or withdrawn; the period that completes the tick is the tick.
That an empty queue stands for one period is the model's choice (log entry 2). -/
def Obligations.EmptyQueueCountsOnePeriod : Prop :=
  ∀ s : State, s.pending = [] →
    (s.controller = .init ∨ s.handedOver ≠ [] → step s = .next s) ∧
    (s.controller ≠ .init ∧ s.handedOver = [] →
      (s.divider + 1 < s.tickLength → step s = .next { s with divider := s.divider + 1 }) ∧
      (s.tickLength ≤ s.divider + 1 → step s = exec .tick s))

/-! ## Power-on reset -/

/-- R150 with R1, R19, R43, R56, R78, R92, R95, R107, R125, R148, R153: from any state, PORST# asserted and
released and initialisation ended leave every block at its power-on values, the controller CONFIG and frame
memory clear. That `State.reset` is that state is the model's reading (log entry 3), and so are what the
pins and the data lines keep (log entries 7 and 20). -/
def Obligations.PowerOnResetsEveryBlock : Prop :=
  ∀ s : State, ∃ u v t,
    exec .porstAssert s = .next u ∧ u.controller = .init ∧ u.porst = true ∧
    exec .porstRelease u = .next v ∧ v.controller = .init ∧ { v with porst := true } = u ∧
    v.porst = false ∧
    exec .initialisationEnd v = .next t ∧ t.controller = .config ∧ t.porst = false ∧
    (∀ k, t.mem.read k = 0) ∧ t.activeTotal = 0 ∧ t.built = 0 ∧ t.scrubList = [] ∧
    (∀ p, t.pool p =
      { sizeCode := 0, count := 0, scrub := false, lowWater := 0, armed := true }) ∧
    (∀ p, t.freeList p = []) ∧ (∀ f, (t.frame f).generation = 0) ∧
    (∀ q, t.queue q =
      { state := .disabled, consumer := 0, permission := 0, depth := 1, threshold := 1, timeout := 0,
        limit := 0, urgent := [], normal := [], discards := 0, requester := none, flushCount := 0 }) ∧
    (∀ e, (t.entry e).place = .free) ∧ t.freeEntries.Perm (List.finRange 2048) ∧
    (∀ g, t.group g = 0) ∧ t.deadLetter = none ∧
    (∀ a, t.agent a =
      { state := .offline, enable := false, quota := 1, claimLimit := 1, held := [], claims := [],
        staging := { kind := .queue, number := 0, tag := 0, length := 0, urgent := false, reply := none },
        delivery := none, last := { code := .ok, action := .none, operand := 0 }, binding := none,
        notices := [], lost := false, noticeDetail := 0, noticeEnable := false, readyEnable := false,
        rotation := 31, cause := none, returned := 0, dropped := 0, freed := 0 }) ∧
    t.prescaler = 1000 ∧ t.divider = 0 ∧ t.timebase = 0 ∧ t.deadlines = [] ∧ t.handedOver = [] ∧
    t.events = [] ∧ t.eventsLost = false ∧ t.eventDetail = 0 ∧ t.supervisorEnable = false ∧
    t.controlResult = { code := .ok, subject := .none, operand := 0 } ∧
    t.heldA = [] ∧ t.heldB = [] ∧ t.rstA = s.rstA ∧ t.rstB = s.rstB ∧ t.pending = s.pending ∧
    { t with
      rstA := false, rstB := false, dataA := 0, dataB := 0, draws := 0, pending := [] } = State.reset

/-! ## Frames -/

/-- R12, R18: an ALLOC that passes its checks takes the frame at the front of the pool's free list, makes it
HELD by the agent, returns its handle, and makes the low-water test. -/
def Obligations.AllocTakesOldestFrame : Prop :=
  ∀ (s : State) (a : AgentId) (p : PoolId) (f : FrameIdx) (rest : List FrameIdx),
    Serves s a → BelowQuota s a → (s.pool p).count ≠ 0 → s.freeList p = f :: rest →
    ∃ t, exec (.alloc a p) s = .next t ∧
      OnlyFrame s t f
        { s.frame f with
          state := .held, refs := 1, holder := some a, length := 0, tag := 0, source := a, reply := none,
          urgent := false } ∧
      OnlyAgent s t a
        { s.agent a with
          held := (s.agent a).held ++ [f]
          last := { code := .ok, action := .alloc, operand := BitVec.ofNat 32 p.val } } ∧
      OnlyFreeList s t p rest ∧ OnlyData s t (agentPort a) (formHandle f (s.frame f).generation) ∧
      (if (s.pool p).armed = true ∧ rest.length ≤ (s.pool p).lowWater then
        OnlyPool s t p { s.pool p with armed := false } ∧ EventOffered s t (.poolLow p rest.length)
      else t.pools = s.pools ∧ t.events = s.events ∧ t.eventsLost = s.eventsLost) ∧
      { t with
        frames := s.frames, agents := s.agents, freeLists := s.freeLists, pools := s.pools,
        events := s.events, eventsLost := s.eventsLost, dataA := s.dataA, dataB := s.dataB } = s

/-- R14, R15: a FREE of a frame the agent holds takes it off the held list, unbinds it, and sends it down the
free path. -/
def Obligations.FreeGivesFrameBack : Prop :=
  ∀ (s : State) (a : AgentId) (h : Word), Serves s a → Holds s a h →
    ∃ t, exec (.free a h) s = .next t ∧
      OnlyAgent s t a
        { s.agent a with
          held := (s.agent a).held.erase (handleIndex h)
          binding := if boundTo s a (handleIndex h) = true then none else (s.agent a).binding
          last := { code := .ok, action := .free, operand := h } } ∧
      TakesFreePath s t (handleIndex h)
        { s.frame (handleIndex h) with refs := 0, holder := none } ∧
      { t with
        agents := s.agents, frames := s.frames, freeLists := s.freeLists, scrubList := s.scrubList,
        pools := s.pools } = s

/-- R12, R64, R66, R68, R111: the checks of ALLOC, RECEIVE and RECEIVE-ANY in their order, each with its
answer. A refused read returns the null handle and changes only the last-result record. The premises are
the law of R114. -/
def Obligations.ReadActionsRefused : Prop :=
  ∀ (s : State) (a : AgentId), PortTakes s (agentPort a) →
    (s.agent a).held.length + (s.agent a).claims.length ≤ (s.agent a).quota →
    (s.agent a).claims.length ≤ (s.agent a).claimLimit →
    let atQuota := (s.agent a).held.length + (s.agent a).claims.length = (s.agent a).quota
    let atLimit := (s.agent a).claims.length = (s.agent a).claimLimit
    let refused (c : Instr) (code : ResultCode) (action : Action) (operand : Word) : Prop :=
      exec c s = .next ((s.answer a code action operand).returns (agentPort a) 0)
    (∀ p code,
      (prefixAnswer s a).or
        (if atQuota then some .quota
        else if (s.pool p).count = 0 ∨ s.freeList p = [] then some .empty
        else none) = some code →
      refused (.alloc a p) code .alloc (BitVec.ofNat 32 p.val)) ∧
    (∀ q code,
      (prefixAnswer s a).or
        (if (s.queue q).state = .disabled then some .noQueue
        else if (s.queue q).consumer ≠ a then some .notConsumer
        else if (s.queue q).state = .paused then some .queuePaused
        else if (s.queue q).state = .closed then some .queueClosed
        else if (s.queue q).state = .flushing then some .flushing
        else if atQuota then some .quota
        else if atLimit then some .claimLimit
        else if (s.queue q).urgent = [] ∧ (s.queue q).normal = [] then some .empty
        else none) = some code →
      refused (.receive a q) code .receive (BitVec.ofNat 32 q.val)) ∧
    (∀ code,
      (prefixAnswer s a).or
        (if atQuota then some .quota
        else if atLimit then some .claimLimit
        else if ∀ q, (s.queue q).consumer = a →
            (s.queue q).state = .open ∨ (s.queue q).state = .draining →
            (s.queue q).urgent = [] ∧ (s.queue q).normal = [] then some .empty
        else none) = some code →
      refused (.receiveAny a) code .receiveAny (BitVec.ofNat 32 (s.agent a).rotation.val))

/-- R9, R14, R70, R72, R111: the checks of FREE, COMPLETE, TAKE and RELEASE in their order. A refusal changes
only the last-result record, which holds the handle as written. -/
def Obligations.HandleActionsRefused : Prop :=
  ∀ (s : State) (a : AgentId) (h : Word) (code : ResultCode), PortTakes s (agentPort a) →
    let f := handleIndex h
    let held := (s.frame f).state = .held ∧ (s.frame f).holder = some a
    let claimed := ∃ e ∈ (s.agent a).claims, (s.entry e).frame = f
    let first (answer : Option ResultCode) : Prop :=
      ((prefixAnswer s a).or (handleAnswer s h)).or answer = some code
    (first (if held then none else some .notOwner) →
      exec (.free a h) s = .next (s.answer a code .free h)) ∧
    (first (if claimed then none else some .notOwner) →
      exec (.complete a h) s = .next (s.answer a code .complete h) ∧
      exec (.release a h) s = .next (s.answer a code .release h)) ∧
    (first (if claimed then if (s.frame f).refs = 1 then none else some .shared else some .notOwner) →
      exec (.take a h) s = .next (s.answer a code .take h))

/-! ## Posting -/

/-- R53, R54, R55, R57: a POST to the staged queue, or a POST_TO_GROUP to the members of the staged group in
ascending number, whose checks pass copies the staging record into the frame, takes one free entry for each
destination, adds it at the tail of its class, and ends the hold. Which free entry a destination takes cannot
be seen from outside (log entry 14); the statement names the model's. -/
def Obligations.PostCreatesEntries : Prop :=
  ∀ (s : State) (a : AgentId) (h : Word), Serves s a → Holds s a h →
    (s.agent a).staging.length ≤ sizeOfFrame s (handleIndex h) →
    destinations s a ≠ [] → (∀ q ∈ destinations s a, TakesPosts s a q) →
    (destinations s a).length ≤ s.freeEntries.length → s.freeEntries.Nodup →
    let f := handleIndex h
    let x := (s.agent a).staging
    let qs := destinations s a
    ∃ t, exec (postCommand s a h) s = .next t ∧
      OnlyFrame s t f
        { s.frame f with
          state := .posted, refs := qs.length, holder := none, length := x.length, tag := x.tag,
          urgent := x.urgent, reply := x.reply, source := a } ∧
      OnlyAgent s t a
        { s.agent a with
          held := (s.agent a).held.erase f
          binding := if boundTo s a f = true then none else (s.agent a).binding
          last := { code := .ok, action := .post, operand := h } } ∧
      (∀ q e, (q, e) ∈ qs.zip s.freeEntries →
        t.queue q =
          (if x.urgent = true then { s.queue q with urgent := (s.queue q).urgent ++ [e] }
          else { s.queue q with normal := (s.queue q).normal ++ [e] }) ∧
        t.entry e =
          { place := .queued, frame := f, home := q, first := q,
            cls := if x.urgent = true then .urgent else .normal, redeliveries := 0, claimant := none,
            deadline := none }) ∧
      (∀ q, q ∉ qs → t.queue q = s.queue q) ∧
      (∀ e, e ∉ s.freeEntries.take qs.length → t.entry e = s.entry e) ∧
      t.freeEntries = s.freeEntries.drop qs.length ∧
      { t with
        frames := s.frames, agents := s.agents, queues := s.queues, entries := s.entries,
        freeEntries := s.freeEntries } = s

/-- R59, R60: a REPLY whose checks pass posts the frame to its own reply queue with one entry; the frame's new
reply queue is the replier's staged one. That the entry is the front one of the free-entry list is the
model's choice and cannot be seen from outside (log entry 14). -/
def Obligations.ReplyPostsToReplyQueue : Prop :=
  ∀ (s : State) (a : AgentId) (h : Word) (q : QueueId) (e : EntryId) (rest : List EntryId),
    Serves s a → Holds s a h → (s.frame (handleIndex h)).reply = some q →
    (s.agent a).staging.length ≤ sizeOfFrame s (handleIndex h) → TakesPosts s a q →
    s.freeEntries = e :: rest →
    let f := handleIndex h
    let x := (s.agent a).staging
    ∃ t, exec (.reply a h) s = .next t ∧
      OnlyFrame s t f
        { s.frame f with
          state := .posted, refs := 1, holder := none, length := x.length, tag := x.tag,
          urgent := x.urgent, reply := x.reply, source := a } ∧
      OnlyAgent s t a
        { s.agent a with
          held := (s.agent a).held.erase f
          binding := if boundTo s a f = true then none else (s.agent a).binding
          last := { code := .ok, action := .reply, operand := h } } ∧
      OnlyQueue s t q
        (if x.urgent = true then { s.queue q with urgent := (s.queue q).urgent ++ [e] }
        else { s.queue q with normal := (s.queue q).normal ++ [e] }) ∧
      OnlyEntry s t e
        { place := .queued, frame := f, home := q, first := q,
          cls := if x.urgent = true then .urgent else .normal, redeliveries := 0, claimant := none,
          deadline := none } ∧
      t.freeEntries = rest ∧
      { t with
        frames := s.frames, agents := s.agents, queues := s.queues, entries := s.entries,
        freeEntries := s.freeEntries } = s

/-- R48, R49, R51, R52, R57, R59: the checks of POST and of REPLY in their order, each with its answer and its
operand. A refusal is all-or-nothing: it changes only the poster's last-result record. The premise is the
law of R28. -/
def Obligations.PostAndReplyRefused : Prop :=
  ∀ (s : State) (a : AgentId) (h : Word) (code : ResultCode) (operand : Word),
    PortTakes s (agentPort a) →
    (∀ q, queuedCount s q + claimCount s q ≤ (s.queue q).depth) →
    let f := handleIndex h
    let x := (s.agent a).staging
    let number := BitVec.ofNat 32 x.number.toNat
    let held : Option (ResultCode × Word) :=
      (((prefixAnswer s a).or (handleAnswer s h)).or
        (if (s.frame f).state = .held ∧ (s.frame f).holder = some a then none
        else some .notOwner)).map fun c => (c, h)
    let tooLong := sizeOfFrame s f < x.length
    (held.or
        (if tooLong then some (.length, h)
        else if destinations s a = [] then some (.badGroup, number)
        else (destinationsAnswer s a (destinations s a)).or
          (if s.freeEntries.length < (destinations s a).length then some (.noEntry, number) else none)) =
        some (code, operand) →
      exec (postCommand s a h) s = .next (s.answer a code .post operand)) ∧
    (held.or
        (match (s.frame f).reply with
        | none => some (.noReplyQueue, h)
        | some q =>
          if tooLong then some (.length, h)
          else (destinationsAnswer s a [q]).or
            (if s.freeEntries = [] then some (.noEntry, BitVec.ofNat 32 q.val) else none)) =
        some (code, operand) →
      exec (.reply a h) s = .next (s.answer a code .reply operand))

/-! ## Receiving and claims -/

/-- R65, R67, R81, R82: a RECEIVE whose checks pass makes the queue's front entry the newest claim of the
agent, gives it its deadline and its place on the deadline list, loads the delivery record and returns the
frame's handle. -/
def Obligations.ReceiveClaimsFrontEntry : Prop :=
  ∀ (s : State) (a : AgentId) (q : QueueId) (e : EntryId) (y : Queue),
    Serves s a → (s.queue q).consumer = a →
    (s.queue q).state = .open ∨ (s.queue q).state = .draining → BelowQuota s a →
    (s.agent a).claims.length < (s.agent a).claimLimit → FrontEntry (s.queue q) e y →
    let x := s.entry e
    let f := s.frame x.frame
    let h := formHandle x.frame f.generation
    ∃ t, exec (.receive a q) s = .next t ∧
      OnlyQueue s t q y ∧
      OnlyEntry s t e
        { x with
          place := .claimed
          claimant := some a
          deadline :=
            if (s.queue q).timeout = 0 then none
            else some (s.timebase + (s.queue q).timeout + 1) } ∧
      OnlyAgent s t a
        { s.agent a with
          claims := (s.agent a).claims ++ [e]
          delivery :=
            some
              { handle := h, source := f.source, tag := f.tag, length := f.length, urgent := f.urgent,
                reply := f.reply, home := x.home, first := x.first, redeliveries := x.redeliveries }
          last := { code := .ok, action := .receive, operand := BitVec.ofNat 32 q.val } } ∧
      OnlyData s t (agentPort a) h ∧
      (if (s.queue q).timeout = 0 then t.deadlines = s.deadlines
      else ∃ l r, s.deadlines = l ++ r ∧ t.deadlines = l ++ e :: r ∧
        (∀ d ∈ l, d ∈ s.handedOver ∨ deadlineDistance t d ≤ deadlineDistance t e) ∧
        ∀ d ∈ r.head?, d ∉ s.handedOver ∧ deadlineDistance t e < deadlineDistance t d) ∧
      { t with
        queues := s.queues, entries := s.entries, agents := s.agents, deadlines := s.deadlines,
        dataA := s.dataA, dataB := s.dataB } = s

/-- R68, R69: RECEIVE-ANY chooses the first candidate in search order from the rotation pointer plus 1 that
has an urgent entry, else the first candidate; it then has the effect of an accepted RECEIVE of that queue
and sets the rotation pointer to it. -/
def Obligations.ReceiveAnyServesInRotation : Prop :=
  ∀ (s : State) (a : AgentId) (q : QueueId), Serves s a → BelowQuota s a →
    (s.agent a).claims.length < (s.agent a).claimLimit →
    let candidate (r : QueueId) : Prop :=
      (s.queue r).consumer = a ∧ ((s.queue r).state = .open ∨ (s.queue r).state = .draining) ∧
        0 < queuedCount s r
    let position (r : QueueId) : Nat := (r.val + 31 - (s.agent a).rotation.val) % 32
    candidate q →
    ((s.queue q).urgent ≠ [] ∧
        ∀ r, candidate r → (s.queue r).urgent ≠ [] → position q ≤ position r) ∨
      ((∀ r, candidate r → (s.queue r).urgent = []) ∧ ∀ r, candidate r → position q ≤ position r) →
    ∃ u t, exec (.receive a q) s = .next u ∧ exec (.receiveAny a) s = .next t ∧
      OnlyAgent u t a
        { u.agent a with
          rotation := q
          last := { code := .ok, action := .receiveAny, operand := BitVec.ofNat 32 q.val } } ∧
      { t with agents := u.agents } = u

/-- R70, R71, R99: COMPLETE ends the agent's oldest claim on the frame: the entry is freed, its deadline
leaves and one reference is dropped (state `u`); then drain completion is tested on the entry's home queue.
That a freed entry joins the tail of the free-entry list is the model's choice (log entry 14). -/
def Obligations.CompleteEndsOldestClaim : Prop :=
  ∀ (s : State) (a : AgentId) (h : Word) (e : EntryId), Serves s a → NamesFrame s h →
    OldestClaim s a (handleIndex h) e →
    ∃ u t, exec (.complete a h) s = .next t ∧
      Completed s u a
        { withoutClaim s a e with last := { code := .ok, action := .complete, operand := h } } e ∧
      DrainTested u t (s.entry e).home

/-- R72, R99: TAKE of the frame's only reference turns the claim into a hold: the frame becomes HELD by the
agent, every other field of its record is kept, a binding to it stays and the entry is freed (state `u`);
then drain completion is tested on the entry's home queue. That a freed entry joins the tail of the
free-entry list is the model's choice (log entry 14). -/
def Obligations.TakeTurnsClaimIntoHold : Prop :=
  ∀ (s : State) (a : AgentId) (h : Word) (e : EntryId), Serves s a → NamesFrame s h →
    OldestClaim s a (handleIndex h) e → (s.frame (handleIndex h)).refs = 1 →
    ∃ u t, exec (.take a h) s = .next t ∧
      Taken s u a
        { s.agent a with
          claims := (s.agent a).claims.erase e
          held := (s.agent a).held ++ [handleIndex h]
          last := { code := .ok, action := .take, operand := h } } e ∧
      DrainTested u t (s.entry e).home

/-- R73, R86, R87: a RELEASE of an entry below its redelivery limit, whose home queue is OPEN, PAUSED or
DRAINING, puts it back at the front of its class list with its redelivery count raised by 1. -/
def Obligations.ReleaseReturnsEntry : Prop :=
  ∀ (s : State) (a : AgentId) (h : Word) (e : EntryId), Serves s a → NamesFrame s h →
    OldestClaim s a (handleIndex h) e → TakesReturns (s.queue (s.entry e).home) →
    (s.entry e).redeliveries < (s.queue (s.entry e).home).limit →
    ∃ t, exec (.release a h) s = .next t ∧
      Returned s t a
        { withoutClaim s a e with last := { code := .ok, action := .release, operand := h } } e
        ((s.entry e).redeliveries + 1)

/-- R88, R89, R91, R98, R99: a RELEASE of an entry at its redelivery limit, whose home queue is OPEN, PAUSED or
DRAINING, moves it to the tail of the dead-letter queue's normal list when the five conditions hold, and
tells the frame's source agent (state `u`); then drain completion is tested on the queue it has left, in the
order that R138 gives (log entry 17). -/
def Obligations.ReleaseMovesToDeadLetterQueue : Prop :=
  ∀ (s : State) (a : AgentId) (h : Word) (e : EntryId) (d : QueueId), Serves s a → NamesFrame s h →
    OldestClaim s a (handleIndex h) e → TakesReturns (s.queue (s.entry e).home) →
    (s.queue (s.entry e).home).limit ≤ (s.entry e).redeliveries → MayMoveTo s e d →
    ∃ u t, exec (.release a h) s = .next t ∧
      Moved s u a
        { withoutClaim s a e with last := { code := .ok, action := .release, operand := h } } e d ∧
      DrainTested u t (s.entry e).home

/-- R86, R90, R91, R98, R99, R103: a RELEASE drops the entry with notice when its home queue is CLOSED, or when
it is at its limit and no move is possible: the discard count rises, saturating at 65535, one reference is
dropped and the frame's source agent is told (state `u`); then drain completion is tested on the home queue.
When the home queue is FLUSHING the drop goes into the flush count and tells no one. That a freed entry joins
the tail of the free-entry list is the model's choice (log entry 14). -/
def Obligations.ReleaseDropsEntry : Prop :=
  ∀ (s : State) (a : AgentId) (h : Word) (e : EntryId), Serves s a → NamesFrame s h →
    OldestClaim s a (handleIndex h) e →
    let released : Agent :=
      { withoutClaim s a e with last := { code := .ok, action := .release, operand := h } }
    (DropsWithNotice s e →
      ∃ u t, exec (.release a h) s = .next t ∧ DroppedWithNotice s u a released e ∧
        DrainTested u t (s.entry e).home) ∧
    ((s.queue (s.entry e).home).state = .flushing →
      ∃ t, exec (.release a h) s = .next t ∧ DroppedIntoFlush s t a released e)

/-- R99, R100, R138: the last claim of a DRAINING queue with nothing queued closes the queue within the request
that ends it: a COMPLETE, a TAKE, and a RELEASE or an expiry at the redelivery limit whose entry is moved or
dropped. The claim ends with all its effects (state `u`); then the queue is CLOSED, its requester absent, and
QUEUE_CLOSED reported to the drain's requester, behind the UNDELIVERED of the move or drop where one agent
receives both (R138, log entry 17). That a freed entry joins the tail of the free-entry list is the model's
choice (log entry 14). -/
def Obligations.LastClaimClosesDrainingQueue : Prop :=
  ∀ (s : State) (a : AgentId) (e : EntryId) (r : Requester),
    let q := (s.entry e).home
    let source := (s.frame (s.entry e).frame).source
    (s.queue q).state = .draining → queuedCount s q = 0 → claimCount s q = 1 →
    (s.queue q).requester = some r → e ∈ (s.agent a).claims →
    let bothTold (t : State) (x : Agent) (outcome : NoticeOutcome) : Prop :=
      let y := if source = a then x else s.agent source
      r = .agent source → y.state = .online → y.notices.length ≤ 14 →
        (t.agent source).notices = y.notices ++ [undeliveredNotice s e outcome, closedNotice q]
    let closes (c : Instr) (effect : State → Prop) (order : State → Prop) : Prop :=
      ∃ u t, exec c s = .next t ∧ effect u ∧ DrainCloses u t q (some r) ∧ order t
    let atLimit (c : Instr) (x : Agent) : Prop :=
      (s.queue q).limit ≤ (s.entry e).redeliveries →
        (∀ d, MayMoveTo s e d →
          closes c (fun u => Moved s u a x e d) fun t => bothTold t x .deadLettered) ∧
        ((∀ d, ¬MayMoveTo s e d) →
          closes c (fun u => DroppedWithNotice s u a x e) fun t => bothTold t x .dropped)
    (∀ h, Serves s a → NamesFrame s h → OldestClaim s a (handleIndex h) e →
      closes (.complete a h)
        (fun u => Completed s u a
          { withoutClaim s a e with last := { code := .ok, action := .complete, operand := h } } e)
        (fun _ => True) ∧
      ((s.frame (handleIndex h)).refs = 1 →
        closes (.take a h)
          (fun u => Taken s u a
            { s.agent a with
              claims := (s.agent a).claims.erase e
              held := (s.agent a).held ++ [handleIndex h]
              last := { code := .ok, action := .take, operand := h } } e)
          (fun _ => True)) ∧
      atLimit (.release a h)
        { withoutClaim s a e with last := { code := .ok, action := .release, operand := h } }) ∧
    (∀ rest, s.handedOver = e :: rest → (s.entry e).claimant = some a →
      atLimit .claimExpiry
        (noticed (withoutClaim s a e) (expiredNotice s e (s.entry e).redeliveries)))

/-! ## The claim timer -/

/-- R85, R86, R88 to R91, R98, R99, R103: the next expiry handed over ends its claim, offers CLAIM_EXPIRED to an
ONLINE claimant with the count the entry then has, and runs the redelivery path. An entry below its limit,
whose home queue is OPEN, PAUSED or DRAINING, returns to the front of its class list with its count raised;
one at its limit is moved to the dead-letter queue, or dropped with notice when no move is possible, and one
of a CLOSED queue is dropped with notice (state `u`), after which drain completion is tested on its home
queue; one of a FLUSHING queue is dropped into the flush count. A claimant that is also the source agent
receives CLAIM_EXPIRED before UNDELIVERED, and UNDELIVERED before QUEUE_CLOSED (R138, log entry 17). That a
freed entry joins the tail of the free-entry list is the model's choice (log entry 14). -/
def Obligations.ExpiryEndsClaim : Prop :=
  ∀ (s : State) (a : AgentId) (e : EntryId) (rest : List EntryId),
    s.handedOver = e :: rest → (s.entry e).claimant = some a →
    let q := (s.entry e).home
    let n := (s.entry e).redeliveries
    let expired (m : Nat) : Agent := noticed (withoutClaim s a e) (expiredNotice s e m)
    (TakesReturns (s.queue q) → n < (s.queue q).limit →
      ∃ t, exec .claimExpiry s = .next t ∧ Returned s t a (expired (n + 1)) e (n + 1)) ∧
    (TakesReturns (s.queue q) → (s.queue q).limit ≤ n → ∀ d, MayMoveTo s e d →
      ∃ u t, exec .claimExpiry s = .next t ∧ Moved s u a (expired n) e d ∧ DrainTested u t q) ∧
    (DropsWithNotice s e →
      ∃ u t, exec .claimExpiry s = .next t ∧ DroppedWithNotice s u a (expired n) e ∧
        DrainTested u t q) ∧
    ((s.queue q).state = .flushing →
      ∃ t, exec .claimExpiry s = .next t ∧ DroppedIntoFlush s t a (expired n) e)

/-- R79, R80, R84: a tick starts the divider again, advances the timebase count by 1 modulo 65536, brings the
stored prescaler into force, and hands over the due entries at the front of the deadline list. -/
def Obligations.TickHandsOverDueClaims : Prop :=
  ∀ s : State, s.controller ≠ .init → s.handedOver = [] →
    ∃ t l r, exec .tick s = .next t ∧ t.timebase = s.timebase + 1 ∧ t.divider = 0 ∧
      t.tickLength = s.prescaler ∧ t.handedOver = l ∧ s.deadlines = l ++ r ∧
      (∀ e ∈ l, (s.entry e).deadline = some (s.timebase + 1)) ∧
      (∀ e ∈ r.head?, (s.entry e).deadline ≠ some (s.timebase + 1)) ∧
      { t with
        timebase := s.timebase, divider := s.divider, tickLength := s.tickLength,
        handedOver := s.handedOver } = s

/-! ## The aperture -/

/-- R127, R128: the checks of a write of BIND in their order; an accepted one binds the frame named, or unbinds
when it is 0, and a refused one changes only the last-result record. A read of BIND that passes the prefix
returns the bound handle, or the null handle without a binding; a refused one returns the null handle. -/
def Obligations.BindNamesFrame : Prop :=
  ∀ (s : State) (a : AgentId), PortTakes s (agentPort a) →
    (∀ h : Word,
      match (prefixAnswer s a).or
        (if h = 0 then none
        else (handleAnswer s h).or
          (if (s.frame (handleIndex h)).state = .held ∧ (s.frame (handleIndex h)).holder = some a ∨
              ∃ e ∈ (s.agent a).claims, (s.entry e).frame = handleIndex h then none
          else some .notOwner)) with
      | some code => exec (.bindWrite a h) s = .next (s.answer a code .bind h)
      | none => exec (.bindWrite a h) s = .next
          (s.setAgent a
            { s.agent a with
              binding := if h = 0 then none else some h
              last := { code := .ok, action := .bind, operand := h } })) ∧
    match prefixAnswer s a with
    | some code => exec (.bindRead a) s = .next ((s.answer a code .bind 0).returns (agentPort a) 0)
    | none => exec (.bindRead a) s = .next
        ((s.answer a .ok .bind ((s.agent a).binding.getD 0)).returns (agentPort a)
          ((s.agent a).binding.getD 0))

/-- R129, R130, R131: an aperture read inside the bound frame, by its holder or a claimant while it is POSTED,
returns the bytes of the enabled lanes, little-endian, and 0 in the others; nothing else changes. -/
def Obligations.ApertureReadsBoundFrame : Prop :=
  ∀ (s : State) (a : AgentId) (m : BitVec 9) (lanes : BitVec 4) (h : Word), FrameTableLaw s →
    PortTakes s (agentPort a) → (s.agent a).binding = some h →
    4 * m.toNat < sizeOfFrame s (handleIndex h) →
    ((s.frame (handleIndex h)).state = .held ∧ (s.frame (handleIndex h)).holder = some a ∨
      (s.frame (handleIndex h)).state = .posted ∧
        ∃ e ∈ (s.agent a).claims, (s.entry e).frame = handleIndex h) →
    ∃ w, exec (.apertureRead a m lanes) s = .next (s.returns (agentPort a) w) ∧
      ∀ i, i < 4 → w.extractLsb' (8 * i) 8 =
        if lanes.getLsbD i = true then s.mem.read (frameBase s (handleIndex h) + 4 * m.toNat + i) else 0

/-- R129, R130, R131: an aperture write inside the bound frame, by its holder, stores the bytes of the enabled
lanes in the word's four bytes; every other byte of frame memory and every other field is unchanged. -/
def Obligations.ApertureWritesHeldFrame : Prop :=
  ∀ (s : State) (a : AgentId) (m : BitVec 9) (lanes : BitVec 4) (w h : Word), FrameTableLaw s →
    MemoryLaw s → PortTakes s (agentPort a) → (s.agent a).binding = some h →
    4 * m.toNat < sizeOfFrame s (handleIndex h) →
    (s.frame (handleIndex h)).state = .held → (s.frame (handleIndex h)).holder = some a →
    let base := frameBase s (handleIndex h) + 4 * m.toNat
    ∃ t, exec (.apertureWrite a m lanes w) s = .next t ∧
      (∀ k, t.mem.read k =
        if base ≤ k ∧ k < base + 4 ∧ lanes.getLsbD (k - base) = true then
          w.extractLsb' (8 * (k - base)) 8
        else s.mem.read k) ∧
      { t with mem := s.mem } = s

/-- R131: an aperture access without a binding, beyond the bound frame, or without its right is refused: a read
returns 0, nothing is stored, and the last-result record holds VIOLATION with the bound handle or the null
handle. -/
def Obligations.ApertureRefusesWithoutRight : Prop :=
  ∀ (s : State) (a : AgentId) (m : BitVec 9) (lanes : BitVec 4) (w : Word), PortTakes s (agentPort a) →
    let refused := s.answer a .violation .aperture ((s.agent a).binding.getD 0)
    let held (f : FrameIdx) : Prop := (s.frame f).state = .held ∧ (s.frame f).holder = some a
    let claimed (f : FrameIdx) : Prop :=
      (s.frame f).state = .posted ∧ ∃ e ∈ (s.agent a).claims, (s.entry e).frame = f
    ((∀ h, (s.agent a).binding = some h →
        sizeOfFrame s (handleIndex h) ≤ 4 * m.toNat ∨ ¬(held (handleIndex h) ∨ claimed (handleIndex h))) →
      exec (.apertureRead a m lanes) s = .next (refused.returns (agentPort a) 0)) ∧
    ((∀ h, (s.agent a).binding = some h →
        sizeOfFrame s (handleIndex h) ≤ 4 * m.toNat ∨ ¬held (handleIndex h)) →
      exec (.apertureWrite a m lanes w) s = .next refused)

/-- R2: a frame begins where the frames of lower index end, and lies wholly inside the 131072 bytes of frame
memory. -/
def Obligations.FramesFollowOneAnother : Prop :=
  ∀ (s : State) (f : FrameIdx), FrameTableLaw s → f.val < s.built →
    frameBase s f = (((List.finRange 1024).filter (· < f)).map (sizeOfFrame s)).sum ∧
      frameBase s f + sizeOfFrame s f ≤ 131072

/-! ## Agents and their retirement -/

/-- R113: the checks of ATTACH in their order; an accepted ATTACH makes the agent ONLINE with every dynamic
field at its reset value and the configuration kept. -/
def Obligations.AttachBringsOnline : Prop :=
  ∀ (s : State) (a : AgentId), PortTakes s (agentPort a) →
    let x := s.agent a
    (∀ code,
      (if s.controller ≠ .running then some ResultCode.notRunning
      else if x.state = .online then some .badState
      else if x.state = .retiring then some .retiring
      else if x.enable = false then some .notEnabled
      else none) = some code →
      exec (.attach a) s = .next (s.answer a code .attach 0)) ∧
    (s.controller = .running → x.state = .offline → x.enable = true →
      exec (.attach a) s = .next
        (s.setAgent a
          { state := .online, enable := true, quota := x.quota, claimLimit := x.claimLimit, held := [],
            claims := [],
            staging :=
              { kind := .queue, number := 0, tag := 0, length := 0, urgent := false, reply := none },
            delivery := none, last := { code := .ok, action := .attach, operand := 0 }, binding := none,
            notices := [], lost := false, noticeDetail := 0, noticeEnable := false,
            readyEnable := false, rotation := 31, cause := none, returned := 0, dropped := 0,
            freed := 0 }))

/-- R116, R117, R119: an accepted DETACH or RETIRE makes the agent RETIRING with its cause, unbinds it, empties
its notice list and pauses the OPEN queues it consumes; a refused one changes only its result record. The
three counters of the retire start at 0 (log entry 21). -/
def Obligations.RetireBegins : Prop :=
  ∀ (s : State) (a : AgentId),
    let beginning (cause : RetireCause) : Agent :=
      { s.agent a with
        state := .retiring, cause := some cause, binding := none, notices := [], lost := false,
        returned := 0, dropped := 0, freed := 0 }
    let paused (t : State) : Prop :=
      ∀ q, t.queue q =
        if (s.queue q).consumer = a ∧ (s.queue q).state = .open then
          { s.queue q with state := .paused }
        else s.queue q
    (Serves s a →
      ∃ t, exec (.detach a) s = .next t ∧
        OnlyAgent s t a
          { beginning .detach with last := { code := .ok, action := .detach, operand := 0 } } ∧
        paused t ∧ { t with agents := s.agents, queues := s.queues } = s) ∧
    (∀ code, PortTakes s (agentPort a) → prefixAnswer s a = some code →
      exec (.detach a) s = .next (s.answer a code .detach 0)) ∧
    (s.resetLine .a = false → s.controller = .running → (s.agent a).state = .online →
      ∃ t, exec (.retire a) s = .next t ∧ OnlyAgent s t a (beginning .retire) ∧ paused t ∧
        t.controlResult =
          { code := .ok, subject := .command 9, operand := BitVec.ofNat 8 a.val } ∧
        { t with agents := s.agents, queues := s.queues, controlResult := s.controlResult } = s) ∧
    (PortTakes s .a → s.controller ≠ .running ∨ (s.agent a).state ≠ .online →
      exec (.retire a) s = .next (s.controlAnswer .wrongState (.command 9) a.val))

/-- R118, R119: when a port's reset line is asserted, each agent of the port that is ONLINE begins its retire
with cause PORT_RESET, and the OPEN queues of these agents are paused; nothing else changes. A line that is
asserted already changes nothing. -/
def Obligations.PortResetRetiresOnlineAgents : Prop :=
  ∀ (s : State) (p : Port),
    (s.resetLine p = true → exec (.portResetAssert p) s = .next s) ∧
    (s.resetLine p = false →
      ∃ t, exec (.portResetAssert p) s = .next t ∧
        (∀ a, t.agent a =
          if agentPort a = p ∧ (s.agent a).state = .online then
            { s.agent a with
              state := .retiring, cause := some .portReset, binding := none, notices := [],
              lost := false, returned := 0, dropped := 0, freed := 0 }
          else s.agent a) ∧
        (∀ q, t.queue q =
          if agentPort (s.queue q).consumer = p ∧ (s.agent (s.queue q).consumer).state = .online ∧
              (s.queue q).state = .open then
            { s.queue q with state := .paused }
          else s.queue q) ∧
        { t with agents := s.agents, queues := s.queues } = s.setResetLine p true)

/-- R118, R163: when the line is released, the port takes the accesses it holds, commands and plain reads. That
they are taken within the release, in the order presented, is the model's choice (log entry 6). -/
def Obligations.PortResetReleaseTakesHeldAccesses : Prop :=
  ∀ (s : State) (p : Port),
    (s.heldAccesses p = [] → exec (.portResetRelease p) s = .next (s.setResetLine p false)) ∧
    ((∀ c, .command c ∈ s.heldAccesses p → (accessPort c).isSome = true) →
      exec (.portResetRelease p) s =
        execAll p (s.heldAccesses p) ((s.setResetLine p false).setHeldAccesses p []))

/-- R120: a claim step returns the newest claim of a RETIRING agent. To a queue that takes returns it goes back
to the front of its class list with its redelivery count unchanged, counted as returned; to a CLOSED or
FLUSHING queue it is dropped, counted as dropped. That a freed entry joins the tail of the free-entry list is
the model's choice (log entry 14). -/
def Obligations.RetireClaimStepReturnsNewest : Prop :=
  ∀ (s : State) (a : AgentId) (e : EntryId) (front : List EntryId), (s.agent a).state = .retiring →
    (s.agent a).claims = front ++ [e] → e ∉ front →
    let q := (s.entry e).home
    (TakesReturns (s.queue q) →
      ∃ t, exec (.retireClaimStep a) s = .next t ∧
        OnlyAgent s t a
          { s.agent a with claims := front, returned := (s.agent a).returned + 1 } ∧
        OnlyEntry s t e (unclaimed (s.entry e) .queued) ∧
        OnlyQueue s t q
          (match (s.entry e).cls with
          | .urgent => { s.queue q with urgent := e :: (s.queue q).urgent }
          | .normal => { s.queue q with normal := e :: (s.queue q).normal }) ∧
        DeadlineLeaves s t e ∧
        { t with
          agents := s.agents, entries := s.entries, queues := s.queues, deadlines := s.deadlines,
          handedOver := s.handedOver } = s) ∧
    ((s.queue q).state = .closed ∨ (s.queue q).state = .flushing →
      ∃ t, exec (.retireClaimStep a) s = .next t ∧
        (∀ b, t.agent b =
          let x := if b = a then
              { s.agent a with claims := front, dropped := (s.agent a).dropped + 1 }
            else s.agent b
          if (s.queue q).state = .closed ∧ b = (s.frame (s.entry e).frame).source then
            noticed x (undeliveredNotice s e .dropped)
          else x) ∧
        OnlyEntry s t e (unclaimed (s.entry e) .free) ∧ t.freeEntries = s.freeEntries ++ [e] ∧
        OnlyQueue s t q
          (if (s.queue q).state = .closed then
            { s.queue q with discards := min ((s.queue q).discards + 1) 65535 }
          else { s.queue q with flushCount := (s.queue q).flushCount + 1 }) ∧
        DeadlineLeaves s t e ∧ ReferenceDropped s t (s.entry e).frame ∧
        { t with
          agents := s.agents, entries := s.entries, queues := s.queues, freeEntries := s.freeEntries,
          deadlines := s.deadlines, handedOver := s.handedOver, frames := s.frames,
          freeLists := s.freeLists, scrubList := s.scrubList, pools := s.pools } = s)

/-- R121, R122: with no claim left, a free step of a RETIRING agent frees its oldest held frame; with no held
frame left it ends the retire: the agent is OFFLINE with its dynamic fields cleared, its last-result record
and configuration kept, and AGENT_RETIRED is offered. The three counters of a retire, in the agent context
and 0 after the end, are the model's (log entry 21). -/
def Obligations.RetireFreeStepFreesOldestOrEnds : Prop :=
  ∀ (s : State) (a : AgentId), (s.agent a).state = .retiring → (s.agent a).claims = [] →
    let x := s.agent a
    (∀ f rest, x.held = f :: rest →
      ∃ t, exec (.retireFreeStep a) s = .next t ∧
        OnlyAgent s t a { x with held := rest, freed := x.freed + 1 } ∧
        TakesFreePath s t f { s.frame f with refs := 0, holder := none } ∧
        { t with
          agents := s.agents, frames := s.frames, freeLists := s.freeLists, scrubList := s.scrubList,
          pools := s.pools } = s) ∧
    (∀ cause, x.held = [] → x.cause = some cause →
      ∃ t, exec (.retireFreeStep a) s = .next t ∧
        OnlyAgent s t a
          { state := .offline, enable := x.enable, quota := x.quota, claimLimit := x.claimLimit,
            held := [], claims := [],
            staging :=
              { kind := .queue, number := 0, tag := 0, length := 0, urgent := false, reply := none },
            delivery := none, last := x.last, binding := none, notices := [], lost := false,
            noticeDetail := 0, noticeEnable := false, readyEnable := false, rotation := 31,
            cause := none, returned := 0, dropped := 0, freed := 0 } ∧
        EventOffered s t (.agentRetired a x.returned x.dropped x.freed cause) ∧
        { t with agents := s.agents, events := s.events, eventsLost := s.eventsLost } = s)

/-! ## The other ports and registers of an agent page -/

/-- R46, R144: the three staging registers and Interrupt Enable take a write while the agent is ONLINE, each
replacing all its fields and no other; a staging length above 2048 is ignored whole, and while the agent is
OFFLINE or RETIRING every one of these writes is ignored. -/
def Obligations.StagingAndEnablesWrittenWhileOnline : Prop :=
  ∀ (s : State) (a : AgentId) (w : Word), PortTakes s (agentPort a) →
    let x := s.agent a
    let writes (c : Instr) (y : Agent) : Prop :=
      exec c s = .next (if x.state = .online then s.setAgent a y else s)
    writes (.stagingDestination a w)
      { x with
        staging :=
          { x.staging with
            kind := if w.getLsbD 8 = true then .group else .queue, number := w.extractLsb' 0 5 } } ∧
    writes (.stagingAttributes a w)
      { x with
        staging :=
          { x.staging with
            tag := w.extractLsb' 0 16, urgent := w.getLsbD 16
            reply := if w.getLsbD 31 = true then some (w.extractLsb' 24 5).toFin else none } } ∧
    writes (.stagingLength a w)
      { x with
        staging :=
          { x.staging with length := if w.toNat ≤ 2048 then w.toNat else x.staging.length } } ∧
    writes (.interruptEnable a w)
      { x with noticeEnable := w.getLsbD 0, readyEnable := w.getLsbD 1 }

/-- R139, R143: a read of NOTICE by an ONLINE agent, and a read of Supervisor Event, takes the oldest record:
its word 0 is returned and its detail loaded; on an empty list the read returns 0 and clears the detail and
the lost flag. A NOTICE read by another agent returns 0 and changes nothing else. The layouts of R167 and
R168 are written out. -/
def Obligations.OldestRecordRead : Prop :=
  ∀ s : State,
    (∀ a, PortTakes s (agentPort a) →
      let x := s.agent a
      (∀ n rest, x.state = .online → x.notices = n :: rest → n.count ≤ 1024 →
        ∃ w, exec (.notice a) s = .next
            ((s.setAgent a { x with notices := rest, noticeDetail := n.handle.getD 0 }).returns
              (agentPort a) w) ∧
          (w.extractLsb' 0 4).toNat =
            (match n.kind with
            | .claimExpired => 1
            | .undelivered => 2
            | .queueClosed => 3
            | .flushDone => 4) ∧
          (w.extractLsb' 8 5).toNat = n.queue.val ∧ (w.extractLsb' 16 11).toNat = n.count ∧
          (w.extractLsb' 28 2).toNat =
            (match n.outcome with
            | .none => 0
            | .deadLettered => 1
            | .dropped => 2)) ∧
      (x.state = .online → x.notices = [] →
        exec (.notice a) s = .next
          ((s.setAgent a { x with lost := false, noticeDetail := 0 }).returns (agentPort a) 0)) ∧
      (x.state ≠ .online → exec (.notice a) s = .next (s.returns (agentPort a) 0))) ∧
    (PortTakes s .a →
      (∀ e rest, s.events = e :: rest →
        ∃ w detail : Word, exec .supervisorEvent s = .next
            ({ s with events := rest, eventDetail := detail }.returns .a w) ∧
          match e with
          | .formatDone n => w = 1 ∧ (n ≤ 1024 → detail.toNat = n)
          | .agentRetired a returned dropped freed cause =>
            (w.extractLsb' 0 4).toNat = 2 ∧ (w.extractLsb' 8 5).toNat = a.val ∧
              (returned ≤ 64 → dropped ≤ 64 → freed ≤ 1024 →
                (detail.extractLsb' 0 7).toNat = returned ∧ (detail.extractLsb' 8 7).toNat = dropped ∧
                (detail.extractLsb' 16 11).toNat = freed ∧
                (detail.extractLsb' 28 2).toNat =
                  match cause with
                  | .detach => 1
                  | .retire => 2
                  | .portReset => 3)
          | .flushDone q n =>
            (w.extractLsb' 0 4).toNat = 3 ∧ (w.extractLsb' 8 5).toNat = q.val ∧
              (n ≤ 1024 → detail.toNat = n)
          | .queueClosed q =>
            (w.extractLsb' 0 4).toNat = 4 ∧ (w.extractLsb' 8 5).toNat = q.val ∧ detail = 0
          | .poolLow p n =>
            (w.extractLsb' 0 4).toNat = 5 ∧ (w.extractLsb' 8 5).toNat = p.val ∧
              (n ≤ 1024 → detail.toNat = n)) ∧
      (s.events = [] →
        exec .supervisorEvent s = .next
          ({ s with eventsLost := false, eventDetail := 0 }.returns .a 0)))

/-- R112, R152, R153, R162, R164, R166: a command word that names no command, and a write to a place that
ignores writes. An agent page answers BAD_COMMAND before any other check; the control page answers BAD_COMMAND
for an unknown code and BAD_VALUE for an operand out of range or a bit above the operand; the ignored write
changes nothing, and a bus write comes to it exactly at the places of the list: pages that are not decoded,
offsets that hold nothing, ports that act only on a read, and read-only registers. The operand recorded with
BAD_VALUE is bits 15 to 8 as written (log entry 27). A term of these rows that is none of their words stops by
name (log entry 10). -/
def Obligations.UnknownCommandsAnswered : Prop :=
  ∀ s : State,
    (∀ a (code : Byte),
      (PortTakes s (agentPort a) → code.toNat = 0 ∨ 7 < code.toNat →
        exec (.unknownAgentCommand a code) s = .next (s.answer a .badCommand .command 0)) ∧
      (1 ≤ code.toNat → code.toNat ≤ 7 →
        exec (.unknownAgentCommand a code) s = .refused .illFormed)) ∧
    (∀ w : Word,
      let code := w.extractLsb' 0 8
      let operand := (w.extractLsb' 8 8).toNat
      let bad := w.extractLsb' 16 16 ≠ 0 ∨ code.toNat ≤ 2 ∧ operand ≠ 0 ∨
        3 ≤ code.toNat ∧ code.toNat ≠ 9 ∧ 31 < operand ∨ code.toNat = 9 ∧ 7 < operand
      (PortTakes s .a → code.toNat = 0 ∨ 10 < code.toNat →
        exec (.unknownControlCommand w) s = .next (s.controlAnswer .badCommand (.command code) 0)) ∧
      (PortTakes s .a → 1 ≤ code.toNat → code.toNat ≤ 10 → bad →
        exec (.unknownControlCommand w) s = .next (s.controlAnswer .badValue (.command code) operand)) ∧
      (1 ≤ code.toNat → code.toNat ≤ 10 → ¬bad →
        exec (.unknownControlCommand w) s = .refused .illFormed)) ∧
    let ignored (port : Port) (page : BitVec 4) (offset : BitVec 10) : Prop :=
      let k := 4 * offset.toNat
      if page.toNat < 4 then k ≤ 0x09C ∨ 0x0CC ≤ k ∧ k ≤ 0x0EC ∨ 0x0F4 ≤ k ∧ k ≤ 0x7FC
      else if port = .a ∧ page.toNat = 8 then
        ¬(k = 0x004 ∨ k = 0x00C ∨ k = 0x014 ∨ k = 0x020 ∨ 0x040 ≤ k ∧ k ≤ 0x04C ∨
          0x060 ≤ k ∧ k ≤ 0x09C ∨ 0x100 ≤ k ∧ k ≤ 0x1FC)
      else True
    (∀ port page offset w,
      (PortTakes s port → ignored port page offset →
        exec (.ignoredWrite port page offset w) s = .next s) ∧
      (¬ignored port page offset →
        exec (.ignoredWrite port page offset w) s = .refused .illFormed)) ∧
    (∀ (x : BusAccess) (w : Word), x.written = some w →
      (s.access x = .command (.ignoredWrite x.port x.page x.offset w) ↔
        ignored x.port x.page x.offset))

/-! ## Queue commands -/

/-- R32, R36 to R39: OPEN, PAUSE and RESUME from either page, DISABLE and CLEAR_DISCARD from the control page,
each from the states that allow it. -/
def Obligations.QueueStateCommandsAccepted : Prop :=
  ∀ (s : State) (r : Requester) (q : QueueId),
    let x := s.queue q
    (CommandServed s r q →
      (x.state = .closed →
        exec (.openQueue r q) s =
          .next (commandOk r q .open 3 (s.setQueue q { x with state := .open }))) ∧
      (r = .control → x.state = .disabled →
        exec (.openQueue r q) s =
          .next (commandOk r q .open 3
            (s.setQueue q { x with state := .open, requester := none, flushCount := 0 }))) ∧
      (x.state = .open →
        exec (.pause r q) s =
          .next (commandOk r q .pause 4 (s.setQueue q { x with state := .paused }))) ∧
      (x.state = .paused →
        exec (.resume r q) s =
          .next (commandOk r q .resume 5 (s.setQueue q { x with state := .open })))) ∧
    (s.resetLine .a = false → s.controller = .running → x.state = .closed → claimCount s q = 0 →
      exec (.disable q) s =
        .next ((s.setQueue q { x with state := .disabled }).controlAnswer .ok (.command 8) q.val)) ∧
    (PortTakes s .a →
      exec (.clearDiscard q) s =
        .next ((s.setQueue q { x with discards := 0 }).controlAnswer .ok (.command 10) q.val))

/-- R96, R97, R100, R101: DRAIN of an OPEN or PAUSED queue with entries makes it DRAINING, and of one without
entries CLOSED at once with its report; FLUSH makes an OPEN, PAUSED, DRAINING or CLOSED queue FLUSHING. The
writer becomes the pending requester, replacing any other. -/
def Obligations.DrainAndFlushAccepted : Prop :=
  ∀ (s : State) (r : Requester) (q : QueueId), CommandServed s r q →
    let x := s.queue q
    let notice : Notice :=
      { kind := .queueClosed, queue := q, count := 0, outcome := .none, handle := none }
    (x.state = .open ∨ x.state = .paused →
      (0 < queuedCount s q + claimCount s q →
        exec (.drain r q) s =
          .next (commandOk r q .drain 6
            (s.setQueue q { x with state := .draining, requester := some r }))) ∧
      (queuedCount s q + claimCount s q = 0 →
        ∃ t, exec (.drain r q) s = .next t ∧ OnlyQueue s t q { x with state := .closed } ∧
          match r with
          | .agent a =>
            OnlyAgent s t a
              { noticed (s.agent a) notice with
                last := { code := .ok, action := .drain, operand := BitVec.ofNat 32 q.val } } ∧
            { t with queues := s.queues, agents := s.agents } = s
          | .control =>
            EventOffered s t (.queueClosed q) ∧
            t.controlResult =
              { code := .ok, subject := .command 6, operand := BitVec.ofNat 8 q.val } ∧
            { t with
              queues := s.queues, events := s.events, eventsLost := s.eventsLost,
              controlResult := s.controlResult } = s)) ∧
    (x.state = .open ∨ x.state = .paused ∨ x.state = .draining ∨ x.state = .closed →
      exec (.flush r q) s =
        .next (commandOk r q .flush 7
          (s.setQueue q { x with state := .flushing, requester := some r, flushCount := 0 })))

/-- R34 to R39: a queue command that fails a check, or names no change from the queue's state, changes only the
result record of its page. An agent page checks the prefix, NO_QUEUE, NOT_CONSUMER and then the transition,
BAD_STATE, but FLUSHING for a FLUSH of a FLUSHING queue; the control page answers WRONG_STATE. -/
def Obligations.QueueCommandsRefused : Prop :=
  ∀ (s : State) (q : QueueId),
    (∀ a c from_ action code answer,
      (c, from_, action, code) ∈ queueCommands (.agent a) q → PortTakes s (agentPort a) →
      (prefixAnswer s a).or
        (if (s.queue q).state = .disabled then some .noQueue
        else if (s.queue q).consumer ≠ a then some .notConsumer
        else if (s.queue q).state ∈ from_ then none
        else if action = .flush then some .flushing
        else some .badState) = some answer →
      exec c s = .next (s.answer a answer action (BitVec.ofNat 32 q.val))) ∧
    (∀ c from_ action code,
      (c, from_, action, code) ∈ queueCommands .control q → PortTakes s .a →
      s.controller ≠ .running ∨ (s.queue q).state ∉ from_ →
      exec c s = .next (s.controlAnswer .wrongState (.command code) q.val)) ∧
    (PortTakes s .a →
      s.controller ≠ .running ∨ (s.queue q).state ≠ .closed ∨ claimCount s q ≠ 0 →
      exec (.disable q) s = .next (s.controlAnswer .wrongState (.command 8) q.val))

/-- R102, R104: a flush step drops the front entry of the queue into the flush count with one reference; when
nothing is queued it ends the flush: the queue is CLOSED, and FLUSH_DONE with the flush count is reported to
the pending requester. That a freed entry joins the tail of the free-entry list is the model's choice (log
entry 14). -/
def Obligations.FlushStepDropsOrEnds : Prop :=
  ∀ (s : State) (q : QueueId), (s.queue q).state = .flushing →
    let x := s.queue q
    (∀ e y, FrontEntry x e y →
      ∃ t, exec (.flushStep q) s = .next t ∧
        OnlyQueue s t q { y with flushCount := x.flushCount + 1 } ∧
        OnlyEntry s t e { s.entry e with place := .free } ∧ t.freeEntries = s.freeEntries ++ [e] ∧
        ReferenceDropped s t (s.entry e).frame ∧
        { t with
          queues := s.queues, entries := s.entries, freeEntries := s.freeEntries, frames := s.frames,
          freeLists := s.freeLists, scrubList := s.scrubList, pools := s.pools } = s) ∧
    (∀ r, x.urgent = [] → x.normal = [] → x.requester = some r →
      ∃ t, exec (.flushStep q) s = .next t ∧
        OnlyQueue s t q { x with state := .closed, requester := none, flushCount := 0 } ∧
        match r with
        | .agent a =>
          OnlyAgent s t a
            (noticed (s.agent a)
              { kind := .flushDone, queue := q, count := x.flushCount, outcome := .none,
                handle := none }) ∧
          { t with queues := s.queues, agents := s.agents } = s
        | .control =>
          EventOffered s t (.flushDone q x.flushCount) ∧
          { t with queues := s.queues, events := s.events, eventsLost := s.eventsLost } = s)

/-! ## Configuration and the controller -/

/-- R41, R154, R168: the checks of a Pool Definition and a Queue Configuration write in their order; a write
that passes replaces the writable fields of its word by the written bits. -/
def Obligations.PoolAndQueueConfigurationWritten : Prop :=
  ∀ (s : State) (w : Word), PortTakes s .a →
    (∀ p,
      let subject := ControlSubject.register (BitVec.ofNat 10 (0x040 + 4 * p.val))
      let bad := 5 < (w.extractLsb' 0 3).toNat ∨ 1024 < (w.extractLsb' 4 11).toNat ∨
        1024 < (w.extractLsb' 16 11).toNat ∨ w.getLsbD 3 = true ∨ w.extractLsb' 27 4 ≠ 0
      (s.controller = .formatting →
        exec (.poolDefinition p w) s = .next (s.controlAnswer .busy subject p.val)) ∧
      (s.controller = .running →
        exec (.poolDefinition p w) s = .next (s.controlAnswer .wrongState subject p.val)) ∧
      (s.controller = .config → bad →
        exec (.poolDefinition p w) s = .next (s.controlAnswer .badValue subject p.val)) ∧
      (s.controller = .config → ¬bad →
        ∃ x : Pool,
          exec (.poolDefinition p w) s = .next ((s.setPool p x).controlAnswer .ok subject p.val) ∧
          x.sizeCode.val = (w.extractLsb' 0 3).toNat ∧ x.count = (w.extractLsb' 4 11).toNat ∧
          x.scrub = w.getLsbD 15 ∧ x.lowWater = (w.extractLsb' 16 11).toNat ∧
          x.armed = (s.pool p).armed)) ∧
    (∀ q half,
      let offset := match half with
        | .first => 0x100 + 8 * q.val
        | .second => 0x104 + 8 * q.val
      let subject := ControlSubject.register (BitVec.ofNat 10 offset)
      let depth := (w.extractLsb' 0 11).toNat
      let threshold := (w.extractLsb' 16 11).toNat
      let bad := match half with
        | .first => w.getLsbD 3 = true ∨ w.getLsbD 7 = true
        | .second => depth = 0 ∨ 1024 < depth ∨ threshold = 0 ∨ depth < threshold ∨
            w.extractLsb' 11 5 ≠ 0 ∨ w.extractLsb' 27 5 ≠ 0
      let written : Queue := match half with
        | .first =>
          { s.queue q with
            consumer := (w.extractLsb' 0 3).toFin, limit := (w.extractLsb' 4 3).toNat
            permission := w.extractLsb' 8 8, timeout := w.extractLsb' 16 16 }
        | .second => { s.queue q with depth := depth, threshold := threshold }
      (s.controller = .formatting →
        exec (.queueConfiguration q half w) s = .next (s.controlAnswer .busy subject q.val)) ∧
      (s.controller ≠ .formatting → (s.queue q).state ≠ .disabled →
        exec (.queueConfiguration q half w) s = .next (s.controlAnswer .wrongState subject q.val)) ∧
      (s.controller ≠ .formatting → (s.queue q).state = .disabled → bad →
        exec (.queueConfiguration q half w) s = .next (s.controlAnswer .badValue subject q.val)) ∧
      (s.controller ≠ .formatting → (s.queue q).state = .disabled → ¬bad →
        exec (.queueConfiguration q half w) s =
          .next ((s.setQueue q written).controlAnswer .ok subject q.val)))

/-- R110, R168: an Agent Configuration write is answered BAD_VALUE for a field out of range or a bit outside
the fields, else WRONG_STATE when the agent is not OFFLINE and the quota or claim limit differs; else all
three fields are stored. -/
def Obligations.AgentConfigurationWritten : Prop :=
  ∀ (s : State) (a : AgentId) (w : Word), PortTakes s .a →
    let x := s.agent a
    let quota := (w.extractLsb' 0 11).toNat
    let limit := (w.extractLsb' 16 7).toNat
    let subject := ControlSubject.register (BitVec.ofNat 10 (0x060 + 4 * a.val))
    let bad := quota = 0 ∨ 1024 < quota ∨ limit = 0 ∨ 64 < limit ∨ w.extractLsb' 11 5 ≠ 0 ∨
      w.getLsbD 23 = true ∨ w.extractLsb' 25 3 ≠ 0 ∨ w.extractLsb' 30 2 ≠ 0
    (bad → exec (.agentConfiguration a w) s = .next (s.controlAnswer .badValue subject a.val)) ∧
    (¬bad → x.state ≠ .offline → quota ≠ x.quota ∨ limit ≠ x.claimLimit →
      exec (.agentConfiguration a w) s = .next (s.controlAnswer .wrongState subject a.val)) ∧
    (¬bad → x.state = .offline ∨ quota = x.quota ∧ limit = x.claimLimit →
      exec (.agentConfiguration a w) s =
        .next ((s.setAgent a { x with enable := w.getLsbD 24, quota := quota, claimLimit := limit }).controlAnswer
          .ok subject a.val))

/-- R56, R80, R92, R146: writes of Group Member Set, Timebase Prescaler, Dead-Letter Selection and Supervisor
Interrupt Enable, accepted in every controller state after INIT; the last three refuse a value out of range
with BAD_VALUE. A prescaler takes effect from the next tick: the tick in progress keeps its length. -/
def Obligations.SingleRegistersWritten : Prop :=
  ∀ (s : State) (w : Word), PortTakes s .a →
    let answered (c : Instr) (offset n : Nat) (good : Prop) (t : State) : Prop :=
      (good → exec c s =
        .next (t.controlAnswer .ok (.register (BitVec.ofNat 10 offset)) n)) ∧
      (¬good → exec c s =
        .next (s.controlAnswer .badValue (.register (BitVec.ofNat 10 offset)) n))
    (∀ g : GroupId,
      answered (.groupMemberSet g w) (0x080 + 4 * g.val) g.val True
        { s with groups := s.groups.set g w }) ∧
    answered (.timebasePrescaler w) 0x00C 0 (1 ≤ w.toNat ∧ w.toNat ≤ 65536)
      { s with prescaler := w.toNat } ∧
    answered (.deadLetterSelection w) 0x014 0 (w.extractLsb' 5 26 = 0)
      { s with
        deadLetter := if w.getLsbD 31 = true then some (w.extractLsb' 0 5).toFin else none } ∧
    answered (.supervisorInterruptEnable w) 0x020 0 (w.extractLsb' 1 31 = 0)
      { s with supervisorEnable := w.getLsbD 0 }

/-- R155: FORMAT in CONFIG checks the frame total, the memory and the low-water marks in that order; when all
pass the controller becomes FORMATTING and the build begins. In FORMATTING it is answered BUSY, in RUNNING
WRONG_STATE. -/
def Obligations.FormatChecksDefinitions : Prop :=
  ∀ s : State, PortTakes s .a →
    let total := (s.pool 0).count + (s.pool 1).count + (s.pool 2).count + (s.pool 3).count
    let bytes (p : PoolId) : Nat := (s.pool p).count * (64 * 2 ^ (s.pool p).sizeCode.val)
    let fits := 1 ≤ total ∧ total ≤ 1024 ∧ bytes 0 + bytes 1 + bytes 2 + bytes 3 ≤ 131072
    let marked (p : PoolId) : Prop := (s.pool p).lowWater ≤ (s.pool p).count
    (s.controller = .formatting → exec .format s = .next (s.controlAnswer .busy (.command 1) 0)) ∧
    (s.controller = .running →
      exec .format s = .next (s.controlAnswer .wrongState (.command 1) 0)) ∧
    (s.controller = .config →
      (¬fits → exec .format s = .next (s.controlAnswer .formatInvalid (.command 1) 4)) ∧
      (∀ p : PoolId, fits → ¬marked p → (∀ r, r < p → marked r) →
        exec .format s = .next (s.controlAnswer .formatInvalid (.command 1) p.val)) ∧
      (fits → (∀ p, marked p) →
        exec .format s =
          .next ({ s with controller := .formatting, built := 0 }.controlAnswer .ok (.command 1) 0)))

/-- R156, R158: each build step enters the next index: its record is made FREE in the pool the index falls in,
its generation advances, it joins the tail of its pool's free list, and in a scrubbing pool its bytes are
cleared. When every frame is entered the build completes: the active frame total is set, every pool armed,
the controller RUNNING and FORMAT_DONE offered. -/
def Obligations.BuildEntersFramesAndCompletes : Prop :=
  ∀ s : State, s.controller = .formatting →
    let total := (s.pool 0).count + (s.pool 1).count + (s.pool 2).count + (s.pool 3).count
    (∀ (f : FrameIdx) (p : PoolId), f.val = s.built → s.built < total →
      poolFirst s p ≤ f.val → f.val < poolFirst s p + (s.pool p).count →
      ∃ t, exec .formatBuildStep s = .next t ∧
        OnlyFrame s t f
          { pool := p, state := .free, generation := (s.frame f).generation + 1, refs := 0,
            holder := none, length := 0, tag := 0, source := 0, reply := none, urgent := false } ∧
        OnlyFreeList s t p (s.freeList p ++ [f]) ∧ t.built = s.built + 1 ∧
        (∀ k, t.mem.read k =
          if (s.pool p).scrub = true ∧ frameBase t f ≤ k ∧ k < frameBase t f + sizeOfFrame t f then 0
          else s.mem.read k) ∧
        { t with
          frames := s.frames, freeLists := s.freeLists, built := s.built, mem := s.mem } = s) ∧
    (s.built = total →
      ∃ t, exec .formatCompletion s = .next t ∧ t.controller = .running ∧ t.activeTotal = total ∧
        (∀ p, t.pool p = { s.pool p with armed := true }) ∧ EventOffered s t (.formatDone total) ∧
        { t with
          controller := s.controller, activeTotal := s.activeTotal, pools := s.pools,
          events := s.events, eventsLost := s.eventsLost } = s)

/-- R17, R18: when the scrub unit finishes the frame at the front of the scrub list, every byte of it is 0, it
leaves the list, its generation advances, and it joins its free list with the re-arm test. -/
def Obligations.ScrubClearsFrontFrame : Prop :=
  ∀ (s : State) (f : FrameIdx) (rest : List FrameIdx), s.controller = .running →
    s.scrubList = f :: rest →
    let x := s.frame f
    ∃ t, exec .scrubCompletion s = .next t ∧ t.scrubList = rest ∧
      (∀ k, t.mem.read k =
        if frameBase s f ≤ k ∧ k < frameBase s f + sizeOfFrame s f then 0 else s.mem.read k) ∧
      OnlyFrame s t f { x with state := .free, generation := x.generation + 1 } ∧
      OnlyFreeList s t x.pool (s.freeList x.pool ++ [f]) ∧
      OnlyPool s t x.pool
        { s.pool x.pool with
          armed := (s.pool x.pool).armed ||
            decide ((s.pool x.pool).lowWater ≤ (s.freeList x.pool).length + 1) } ∧
      { t with
        scrubList := s.scrubList, mem := s.mem, frames := s.frames, freeLists := s.freeLists,
        pools := s.pools } = s

/-- R159 with R20, R44, R95, R107, R125, R148: RESTART, in any state after INIT, clears the traffic and keeps
the configuration. Frame memory is unchanged but for bytes of the frame whose clear it abandons, each of which
is as it was or 0 (log entry 4); the generations, pool definitions, queue and agent configurations, groups,
dead-letter selection, supervisor enable and the timer are kept. The three counters of a retire, 0 after it,
are the model's (log entry 21). -/
def Obligations.RestartClearsTraffic : Prop :=
  ∀ s : State, PortTakes s .a →
    ∃ t, exec .restart s = .next t ∧ t.controller = .config ∧ t.activeTotal = 0 ∧ t.built = 0 ∧
      (∀ f, (t.frame f).generation = (s.frame f).generation) ∧ (∀ p, t.freeList p = []) ∧
      t.scrubList = [] ∧
      (∀ k, t.mem.read k = s.mem.read k ∨
        t.mem.read k = 0 ∧ s.controller = .running ∧
          ∃ f ∈ s.scrubList.head?, frameBase s f ≤ k ∧ k < frameBase s f + sizeOfFrame s f) ∧
      (∀ e, (t.entry e).place = .free ∧ (t.entry e).claimant = none ∧
        (t.entry e).deadline = none) ∧
      t.freeEntries.Perm (List.finRange 2048) ∧
      (∀ q, t.queue q =
        { s.queue q with
          state := .disabled, urgent := [], normal := [], discards := 0, requester := none,
          flushCount := 0 }) ∧
      (∀ a, t.agent a =
        { state := .offline, enable := (s.agent a).enable, quota := (s.agent a).quota,
          claimLimit := (s.agent a).claimLimit, held := [], claims := [],
          staging :=
            { kind := .queue, number := 0, tag := 0, length := 0, urgent := false, reply := none },
          delivery := none, last := { code := .ok, action := .none, operand := 0 }, binding := none,
          notices := [], lost := false, noticeDetail := 0, noticeEnable := false,
          readyEnable := false, rotation := 31, cause := none, returned := 0, dropped := 0,
          freed := 0 }) ∧
      t.deadlines = [] ∧ t.handedOver = [] ∧ t.events = [] ∧ t.eventsLost = false ∧
      t.eventDetail = 0 ∧
      t.controlResult = { code := .ok, subject := .command 2, operand := 0 } ∧
      { t with
        controller := s.controller, activeTotal := s.activeTotal, frames := s.frames,
        built := s.built, freeLists := s.freeLists, scrubList := s.scrubList, mem := s.mem,
        draws := s.draws, entries := s.entries, freeEntries := s.freeEntries, queues := s.queues,
        agents := s.agents, deadlines := s.deadlines, handedOver := s.handedOver, events := s.events,
        eventsLost := s.eventsLost, eventDetail := s.eventDetail,
        controlResult := s.controlResult } = s

/-! ## The ports and the lines -/

/-- R118, R150, R163: an access presented while its port's reset line is asserted is held, whatever it is, and
nothing else happens; in INIT, on a port whose line is released, a read returns 0 and a write is ignored. A
read of a plain register is held or answered so too, and else returns the register's word; that it is no
command is the model's choice (log entry 8). -/
def Obligations.AccessesNotTaken : Prop :=
  ∀ s : State,
    (∀ (c : Instr) (p : Port), WellFormed c = true → accessPort c = some p →
      (s.resetLine p = true →
        exec c s = .next (s.setHeldAccesses p (s.heldAccesses p ++ [.command c]))) ∧
      (s.resetLine p = false → s.controller = .init →
        exec c s = .next (if isRead c = true then s.returns p 0 else s))) ∧
    (∀ x : BusAccess, x.written = none → readCommand x.place x.lanes = none →
      (s.resetLine x.port = true →
        s.access x =
          .read (s.setHeldAccesses x.port (s.heldAccesses x.port ++ [.read x.place]))) ∧
      (s.resetLine x.port = false → s.controller = .init → s.access x = .read (s.returns x.port 0)) ∧
      (PortTakes s x.port → s.access x = .read (s.returns x.port (readPlace s x.place))))

/-- R30, R145, R146: an agent's line is asserted exactly while the agent is ONLINE and an enabled condition
holds: a waiting notice, or a queue in its ready set; INTS# exactly while an event waits and its enable is
set. -/
def Obligations.InterruptLinesFollowConditions : Prop :=
  ∀ (s : State) (a : AgentId),
    (agentLine s a = true ↔
      (s.agent a).state = .online ∧
        ((s.agent a).notices ≠ [] ∧ (s.agent a).noticeEnable = true ∨
          (s.agent a).readyEnable = true ∧ ∃ q, (s.queue q).consumer = a ∧
            ((s.queue q).state = .open ∨ (s.queue q).state = .draining) ∧
            (s.queue q).threshold ≤ (s.queue q).urgent.length + (s.queue q).normal.length)) ∧
    (supervisorLine s = true ↔ s.events ≠ [] ∧ s.supervisorEnable = true)

/-- R8, R167, R168: a handle formed from an index and a generation is well formed and gives them back, and
every well-formed handle is the one formed from its fields; a configuration word that is accepted reads back
as written, but for the read-only fields and the queue number of an absent selection. -/
def Obligations.HandlesAndConfigurationReadBack : Prop :=
  (∀ i g, handleWellFormed (formHandle i g) = true ∧ handleIndex (formHandle i g) = i ∧
    handleGeneration (formHandle i g) = g) ∧
  (∀ h, handleWellFormed h = true → formHandle (handleIndex h) (handleGeneration h) = h) ∧
  (∀ x y w, poolOfWord x w = some y →
    (poolWord y).extractLsb' 0 31 = w.extractLsb' 0 31 ∧ (poolWord y).getLsbD 31 = x.armed) ∧
  (∀ x y half w, queueOfWord x half w = some y → queueConfigurationWord y half = w) ∧
  (∀ x y w, agentOfWord x w = some y →
    (agentConfigurationWord y).extractLsb' 0 28 = w.extractLsb' 0 28 ∧
      ((agentConfigurationWord y).extractLsb' 28 2).toNat = x.state.number) ∧
  (∀ y w, selectionOfWord w = some y → selectionWord y = if w.getLsbD 31 = true then w else 0) ∧
  (∀ n w, prescalerOfWord w = some n → field 0 17 n = w) ∧
  (∀ b w, enableOfWord w = some b → flag 0 b = w)

/-! ## The laws of the part -/

/-- The state after power-on reset meets every law (R19, R43, R78, R95, R125). -/
def Obligations.ResetMeetsEveryLaw : Prop :=
  MemoryLaw State.reset ∧ ControllerLaw State.reset ∧ HeldLaw State.reset ∧ AgentLaw State.reset ∧
    BindingLaw State.reset ∧ QueueLaw State.reset ∧ FrameTableLaw State.reset ∧ EntryLaw State.reset ∧
    DepthLaw State.reset ∧ ReferenceLaw State.reset ∧ DeadlineLaw State.reset

/-- R2: every step keeps frame memory in its canonical form, inside its 131072 bytes. -/
def Obligations.EveryStepKeepsMemoryLaw : Prop :=
  ∀ s t : State, MemoryLaw s → step s = .next t → MemoryLaw t

/-- R84, R108, R142, R149, R150, R151, R118: every step keeps, outside RUNNING, every agent OFFLINE, every queue
DISABLED, the deadline and scrub lists empty and the active frame total 0; at most 16 supervisor events; and
the accesses a port holds, each an access of that port, to the time its reset line is asserted. -/
def Obligations.EveryStepKeepsControllerAndPortLaws : Prop :=
  ∀ s t : State, ControllerLaw s → HeldLaw s → step s = .next t → ControllerLaw t ∧ HeldLaw t

/-- R108 to R110, R114, R136, R141: every step keeps every agent within its quota and claim limit, an OFFLINE
agent without frames or claims, and an agent that is not ONLINE without binding or notices; and R126: where
the frame table and its references are sound, a binding names a frame that the agent holds or claims, at its
current generation. -/
def Obligations.EveryStepKeepsAgentLaw : Prop :=
  ∀ s t : State, AgentLaw s → step s = .next t →
    AgentLaw t ∧
      (ControllerLaw s → FrameTableLaw s → EntryLaw s → ReferenceLaw s → BindingLaw s → BindingLaw t)

/-- R24, R32, R33, R39, R41, R96: every step keeps every queue record in range, the pending requester present
exactly while DRAINING or FLUSHING, the flush count 0 while not FLUSHING, and a CLOSED or DISABLED queue
without queued entries; and where the entries are sound, the flush count at most 1024. -/
def Obligations.EveryStepKeepsQueueLaw : Prop :=
  ∀ s t : State, QueueLaw s → step s = .next t →
    QueueLaw t ∧
      (EntryLaw s → AgentLaw s → DepthLaw s → ∀ q, (t.queue q).flushCount ≤ 1024)

/-- R2, R161: every step keeps the frame table to the layout that FORMAT accepted. -/
def Obligations.EveryStepKeepsFrameTableLaw : Prop :=
  ∀ s t : State, FrameTableLaw s → step s = .next t → FrameTableLaw t

/-- R22, R23, R25, R63: every step keeps each of the 2048 entries in exactly one place. -/
def Obligations.EveryStepKeepsEntryLaw : Prop :=
  ∀ s t : State, EntryLaw s → AgentLaw s → step s = .next t → EntryLaw t

/-- R28, R39, R86, R96, R99: every step keeps every queue within its depth limit, the entries its flush has
dropped counted with it, a DISABLED queue without claims, a DRAINING queue with an entry, and every entry's
redelivery count within the limit of its home queue. -/
def Obligations.EveryStepKeepsDepthLaw : Prop :=
  ∀ s t : State, EntryLaw s → AgentLaw s → QueueLaw s → DepthLaw s → step s = .next t → DepthLaw t

/-- R5, R10, R16, R29, R115: every step keeps every reference count equal to the references there are, the held,
free and scrub lists to the frames in those states, and at most one entry of a frame in each home queue. -/
def Obligations.EveryStepKeepsReferenceLaw : Prop :=
  ∀ s t : State, EntryLaw s → AgentLaw s → FrameTableLaw s → ReferenceLaw s → step s = .next t →
    ReferenceLaw t

/-- R82, R84: every step keeps the deadline list to the claims that carry a deadline, in the order in which
they fall due. -/
def Obligations.EveryStepKeepsDeadlineLaw : Prop :=
  ∀ s t : State, EntryLaw s → AgentLaw s → DeadlineLaw s → step s = .next t → DeadlineLaw t

/-- R163: the part raises no error: every command that spells one of its row runs to a next state, in every
state that keeps the laws of its frame table and its ports. That a part's own step with nothing to do is a
next state is the model's choice (log entry 1). -/
def Obligations.EveryCommandCompletes : Prop :=
  ∀ (s : State) (c : Instr), FrameTableLaw s → HeldLaw s → WellFormed c = true →
    ∃ t, exec c s = .next t ∧ t.pending = s.pending

/-- R129, R134: while a frame is POSTED no command changes its bytes. The release of a port's reset line is
left out: it takes several accesses within one command (log entry 6). -/
def Obligations.PostedFrameBytesStayFixed : Prop :=
  ∀ (s t : State) (c : Instr) (f : FrameIdx) (k : Nat), MemoryLaw s → FrameTableLaw s →
    ReferenceLaw s → (∀ p, c ≠ .portResetRelease p) → (s.frame f).state = .posted →
    exec c s = .next t → frameBase s f ≤ k → k < frameBase s f + sizeOfFrame s f →
    t.mem.read k = s.mem.read k

end
end

