-- ==== Sys2Proof/Laws/Memory.lean ====
section
/-!
SUPPORT. The laws of frame memory: what a byte reads after a write or a clear, and that every operation
keeps the canonical form.
-/

namespace Sys2Proof.Machine

/-- Below every listed address a byte reads 0. -/
theorem Memory.read_below (m : Memory) (k : Nat) (h : ∀ c ∈ m, k < c.1) : m.read k = 0 := by
  induction m with
  | nil => rfl
  | cons c rest ih =>
    have hk := h c (List.mem_cons_self ..)
    simp only [Memory.read]
    rw [if_neg (by omega)]
    exact ih fun d hd => h d (List.mem_cons_of_mem _ hd)

/-- A byte reads what was last written to it, and every other byte reads as before. -/
theorem Memory.read_write (m : Memory) (k : Nat) (v : Byte) (j : Nat)
    (h : m.Pairwise fun x y => x.1 < y.1) :
    (m.write k v).read j = if j = k then v else m.read j := by
  induction m with
  | nil =>
    by_cases hv : v = 0
    · simp [Memory.write, Memory.read, hv]
    · simp only [Memory.write, if_neg hv, Memory.read, eq_comm (a := k)]
  | cons c rest ih =>
    obtain ⟨i, x⟩ := c
    have hp := List.pairwise_cons.mp h
    have ih := ih hp.2
    by_cases hik : i < k
    · simp only [Memory.write, if_pos hik, Memory.read, ih]
      by_cases hij : i = j
      · subst hij
        rw [if_pos rfl, if_neg (by omega), if_pos rfl]
      · rw [if_neg hij, if_neg hij]
    · by_cases he : i = k
      · subst he
        by_cases hv : v = 0
        · simp only [Memory.write, Nat.lt_irrefl, if_false, if_true, hv, Memory.read]
          by_cases hij : j = i
          · subst hij
            rw [if_pos rfl]
            exact Memory.read_below rest j hp.1
          · rw [if_neg hij, if_neg (Ne.symm hij)]
        · simp only [Memory.write, Nat.lt_irrefl, if_false, if_true, hv, Memory.read]
          by_cases hij : i = j
          · simp [hij]
          · rw [if_neg hij, if_neg hij, if_neg (Ne.symm hij)]
      · by_cases hv : v = 0
        · simp only [Memory.write, if_neg hik, if_neg he, if_pos hv]
          by_cases hjk : j = k
          · subst hjk
            rw [if_pos rfl, hv]
            apply Memory.read_below
            intro d hd
            rcases List.mem_cons.mp hd with rfl | hd
            · simp only; omega
            · have := hp.1 d hd; simp only at this; omega
          · rw [if_neg hjk]
        · simp only [Memory.write, if_neg hik, if_neg he, if_neg hv, Memory.read]
          by_cases hjk : j = k
          · simp [hjk]
          · rw [if_neg hjk, if_neg (Ne.symm hjk)]

/-- What a write lists. -/
theorem Memory.mem_write (m : Memory) (k : Nat) (v : Byte) (c : Host.Cell) (h : c ∈ m.write k v) :
    c ∈ m ∨ c = (k, v) ∧ v ≠ 0 := by
  induction m with
  | nil =>
    by_cases hv : v = 0
    · simp [Memory.write, hv] at h
    · simp only [Memory.write, if_neg hv, List.mem_singleton] at h
      exact .inr ⟨h, hv⟩
  | cons d rest ih =>
    obtain ⟨i, x⟩ := d
    simp only [Memory.write] at h
    split at h
    · rcases List.mem_cons.mp h with h | h
      · exact .inl (h ▸ List.mem_cons_self ..)
      · exact (ih h).imp (List.mem_cons_of_mem _) id
    · split at h
      · split at h
        · exact .inl (List.mem_cons_of_mem _ h)
        · rename_i hv
          rcases List.mem_cons.mp h with h | h
          · exact .inr ⟨h, hv⟩
          · exact .inl (List.mem_cons_of_mem _ h)
      · split at h
        · exact .inl h
        · rename_i hv
          rcases List.mem_cons.mp h with h | h
          · exact .inr ⟨h, hv⟩
          · exact .inl h

/-- A write keeps the addresses rising. -/
theorem Memory.write_pairwise (m : Memory) (k : Nat) (v : Byte)
    (h : m.Pairwise fun x y => x.1 < y.1) : (m.write k v).Pairwise fun x y => x.1 < y.1 := by
  induction m with
  | nil =>
    simp only [Memory.write]
    split <;> simp
  | cons c rest ih =>
    obtain ⟨i, x⟩ := c
    have hp := List.pairwise_cons.mp h
    have below : ∀ d ∈ rest, i < d.1 := hp.1
    simp only [Memory.write]
    split
    · rename_i hik
      refine List.pairwise_cons.mpr ⟨fun d hd => ?_, ih hp.2⟩
      rcases Memory.mem_write rest k v d hd with hd | ⟨rfl, -⟩
      · exact below d hd
      · exact hik
    · split
      · rename_i he
        split
        · exact hp.2
        · exact List.pairwise_cons.mpr ⟨fun d hd => he ▸ below d hd, hp.2⟩
      · split
        · exact h
        · refine List.pairwise_cons.mpr ⟨fun d hd => ?_, h⟩
          rcases List.mem_cons.mp hd with rfl | hd
          · simp only; omega
          · have := below d hd; simp only; omega

/-- A write inside frame memory keeps the canonical form. -/
theorem Memory.wf_write (m : Memory) (k : Nat) (v : Byte) (h : m.wf) (hk : k < Config.memoryBytes) :
    (m.write k v).wf := by
  refine ⟨Memory.write_pairwise m k v h.1, fun c hc => ?_⟩
  rcases Memory.mem_write m k v c hc with hc | ⟨rfl, hv⟩
  · exact h.2 c hc
  · exact ⟨hv, hk⟩

/-- A clear keeps the canonical form. -/
theorem Memory.wf_clearWhere (m : Memory) (base size : Nat) (which : Nat → Bool) (h : m.wf) :
    (m.clearWhere base size which).wf :=
  ⟨h.1.filter _, fun c hc => h.2 c (List.mem_of_mem_filter hc)⟩

theorem Memory.wf_clear (m : Memory) (base size : Nat) (h : m.wf) : (m.clear base size).wf :=
  Memory.wf_clearWhere m base size _ h

/-- A cleared byte reads 0, and every other byte reads as before. -/
theorem Memory.read_clearWhere (m : Memory) (base size : Nat) (which : Nat → Bool) (k : Nat) :
    (m.clearWhere base size which).read k =
      if base ≤ k ∧ k < base + size ∧ which (k - base) = true then 0 else m.read k := by
  induction m with
  | nil => simp [Memory.clearWhere, Memory.read]
  | cons c rest ih =>
    obtain ⟨i, x⟩ := c
    simp only [Memory.clearWhere] at ih ⊢
    by_cases hc : base ≤ i ∧ i < base + size ∧ which (i - base) = true
    · have hf : (decide (base ≤ i) && decide (i < base + size) && which (i - base)) = true := by
        simp [hc]
      rw [List.filter_cons_of_neg (by simp [hf]), ih]
      by_cases hik : i = k
      · subst hik
        rw [if_pos hc, if_pos hc]
      · simp only [Memory.read, if_neg hik]
    · have hf : ¬(decide (base ≤ i) && decide (i < base + size) && which (i - base)) = true := by
        simpa [and_assoc] using hc
      rw [List.filter_cons_of_pos (by simp [Bool.eq_false_iff.mpr hf])]
      simp only [Memory.read, ih]
      by_cases hik : i = k
      · subst hik
        rw [if_pos rfl, if_pos rfl, if_neg hc]
      · rw [if_neg hik, if_neg hik]

theorem Memory.read_clear (m : Memory) (base size k : Nat) :
    (m.clear base size).read k = if base ≤ k ∧ k < base + size then 0 else m.read k := by
  simp [Memory.clear, Memory.read_clearWhere]

/-- Storing the enabled lanes of a word inside frame memory keeps the canonical form. -/
theorem Memory.wf_writeLanes (m : Memory) (k : Nat) (lanes : BitVec 4) (w : Word) (h : m.wf)
    (hk : k + 4 ≤ Config.memoryBytes) : (m.writeLanes k lanes w).wf := by
  have lane (m : Memory) (i : Nat) (h : m.wf) (hi : i < 4) :
      Memory.wf (if lanes.getLsbD i then m.write (k + i) (laneByte w i) else m) := by
    split
    · exact Memory.wf_write m _ _ h (by omega)
    · exact h
  exact lane _ 3 (lane _ 2 (lane _ 1 (lane _ 0 h (by omega)) (by omega)) (by omega)) (by omega)

/-- A byte reads the enabled lane stored in it; every other byte reads as before (R130). -/
theorem Memory.read_writeLanes (m : Memory) (k : Nat) (lanes : BitVec 4) (w : Word) (j : Nat)
    (h : m.Pairwise fun x y => x.1 < y.1) :
    (m.writeLanes k lanes w).read j =
      if k ≤ j ∧ j < k + 4 ∧ lanes.getLsbD (j - k) = true then laneByte w (j - k) else m.read j := by
  have pw (m : Memory) (i : Nat) (h : m.Pairwise fun x y => x.1 < y.1) :
      List.Pairwise (fun x y => x.1 < y.1)
        (if lanes.getLsbD i then m.write (k + i) (laneByte w i) else m) := by
    split
    · exact Memory.write_pairwise m _ _ h
    · exact h
  have rd (m : Memory) (i : Nat) (h : m.Pairwise fun x y => x.1 < y.1) :
      Memory.read (if lanes.getLsbD i then m.write (k + i) (laneByte w i) else m) j =
        if j = k + i ∧ lanes.getLsbD i = true then laneByte w i else m.read j := by
    split
    · rename_i hl
      rw [Memory.read_write m _ _ _ h]
      simp [hl]
    · rename_i hl
      simp [hl]
  unfold Memory.writeLanes
  rw [rd _ 3 (pw _ 2 (pw _ 1 (pw _ 0 h))), rd _ 2 (pw _ 1 (pw _ 0 h)), rd _ 1 (pw _ 0 h), rd _ 0 h]
  by_cases hj : k ≤ j ∧ j < k + 4
  · have : j = k + 0 ∨ j = k + 1 ∨ j = k + 2 ∨ j = k + 3 := by omega
    rcases this with rfl | rfl | rfl | rfl <;> simp
  · rw [if_neg (by omega), if_neg (by omega), if_neg (by omega), if_neg (by omega),
      if_neg (by omega)]

end Sys2Proof.Machine
end

