-- ==== Sys2Proof/Laws/Table.lean ====
section
/-! SUPPORT. The laws of a table: what is read after a record is replaced. -/

namespace Sys2Proof.Table

variable {α β : Type} {n : Nat}

/-- Two tables that agree at every number are equal. -/
theorem ext_get {t u : Table α n} (h : ∀ i, t.get i = u.get i) : t = u := by
  cases t with
  | mk x =>
    cases u with
    | mk y =>
      congr 1
      apply Vector.ext
      intro i hi
      exact h ⟨i, hi⟩

theorem get_set (t : Table α n) (i j : Fin n) (x : α) :
    (t.set i x).get j = if j = i then x else t.get j := by
  simp only [get, set, Vector.getElem_set, Fin.ext_iff, eq_comm]

@[simp] theorem get_set_self (t : Table α n) (i : Fin n) (x : α) : (t.set i x).get i = x := by
  simp [get_set]

theorem get_set_ne (t : Table α n) {i j : Fin n} (x : α) (h : j ≠ i) :
    (t.set i x).get j = t.get j := by
  simp [get_set, h]

@[simp] theorem set_set (t : Table α n) (i : Fin n) (x y : α) : (t.set i x).set i y = t.set i y := by
  apply ext_get
  intro j
  simp only [get_set]
  split <;> rfl

@[simp] theorem set_get (t : Table α n) (i : Fin n) : t.set i (t.get i) = t := by
  apply ext_get
  intro j
  simp only [get_set]
  split <;> simp_all

theorem set_comm (t : Table α n) {i j : Fin n} (x y : α) (h : i ≠ j) :
    (t.set i x).set j y = (t.set j y).set i x := by
  apply ext_get
  intro k
  simp only [get_set]
  split <;> split <;> simp_all

@[simp] theorem get_fill (x : α) (i : Fin n) : (fill x : Table α n).get i = x := by
  simp [get, fill]

@[simp] theorem get_map (f : α → β) (t : Table α n) (i : Fin n) : (t.map f).get i = f (t.get i) := by
  simp [get, map]

end Sys2Proof.Table
end

