-- ==== Sys2Proof/Laws/State.lean ====
section
/-!
SUPPORT. What each update of the state leaves in each field: one lemma for each field and update, and
what the accessors of the tables read after an update.
-/

namespace Sys2Proof.Machine.State

variable (s : State)

/-! ### `setAgent` -/

@[simp] theorem setAgent_controller (a : AgentId) (x : Agent) : (s.setAgent a x).controller =
    s.controller := rfl
@[simp] theorem setAgent_porst (a : AgentId) (x : Agent) : (s.setAgent a x).porst = s.porst := rfl
@[simp] theorem setAgent_rstA (a : AgentId) (x : Agent) : (s.setAgent a x).rstA = s.rstA := rfl
@[simp] theorem setAgent_rstB (a : AgentId) (x : Agent) : (s.setAgent a x).rstB = s.rstB := rfl
@[simp] theorem setAgent_heldA (a : AgentId) (x : Agent) : (s.setAgent a x).heldA = s.heldA := rfl
@[simp] theorem setAgent_heldB (a : AgentId) (x : Agent) : (s.setAgent a x).heldB = s.heldB := rfl
@[simp] theorem setAgent_dataA (a : AgentId) (x : Agent) : (s.setAgent a x).dataA = s.dataA := rfl
@[simp] theorem setAgent_dataB (a : AgentId) (x : Agent) : (s.setAgent a x).dataB = s.dataB := rfl
@[simp] theorem setAgent_pools (a : AgentId) (x : Agent) : (s.setAgent a x).pools = s.pools := rfl
@[simp] theorem setAgent_events (a : AgentId) (x : Agent) : (s.setAgent a x).events =
    s.events := rfl
@[simp] theorem setAgent_eventsLost (a : AgentId) (x : Agent) : (s.setAgent a x).eventsLost =
    s.eventsLost := rfl
@[simp] theorem setAgent_eventDetail (a : AgentId) (x : Agent) : (s.setAgent a x).eventDetail =
    s.eventDetail := rfl
@[simp] theorem setAgent_supervisorEnable (a : AgentId) (x : Agent) : (s.setAgent a x).supervisorEnable =
    s.supervisorEnable := rfl
@[simp] theorem setAgent_controlResult (a : AgentId) (x : Agent) : (s.setAgent a x).controlResult =
    s.controlResult := rfl
@[simp] theorem setAgent_frames (a : AgentId) (x : Agent) : (s.setAgent a x).frames =
    s.frames := rfl
@[simp] theorem setAgent_built (a : AgentId) (x : Agent) : (s.setAgent a x).built = s.built := rfl
@[simp] theorem setAgent_activeTotal (a : AgentId) (x : Agent) : (s.setAgent a x).activeTotal =
    s.activeTotal := rfl
@[simp] theorem setAgent_freeLists (a : AgentId) (x : Agent) : (s.setAgent a x).freeLists =
    s.freeLists := rfl
@[simp] theorem setAgent_scrubList (a : AgentId) (x : Agent) : (s.setAgent a x).scrubList =
    s.scrubList := rfl
@[simp] theorem setAgent_mem (a : AgentId) (x : Agent) : (s.setAgent a x).mem = s.mem := rfl
@[simp] theorem setAgent_entries (a : AgentId) (x : Agent) : (s.setAgent a x).entries =
    s.entries := rfl
@[simp] theorem setAgent_freeEntries (a : AgentId) (x : Agent) : (s.setAgent a x).freeEntries =
    s.freeEntries := rfl
@[simp] theorem setAgent_queues (a : AgentId) (x : Agent) : (s.setAgent a x).queues =
    s.queues := rfl
@[simp] theorem setAgent_groups (a : AgentId) (x : Agent) : (s.setAgent a x).groups =
    s.groups := rfl
@[simp] theorem setAgent_deadLetter (a : AgentId) (x : Agent) : (s.setAgent a x).deadLetter =
    s.deadLetter := rfl
@[simp] theorem setAgent_agents (a : AgentId) (x : Agent) : (s.setAgent a x).agents =
    s.agents.set a x := rfl
@[simp] theorem setAgent_prescaler (a : AgentId) (x : Agent) : (s.setAgent a x).prescaler =
    s.prescaler := rfl
@[simp] theorem setAgent_tickLength (a : AgentId) (x : Agent) : (s.setAgent a x).tickLength =
    s.tickLength := rfl
@[simp] theorem setAgent_divider (a : AgentId) (x : Agent) : (s.setAgent a x).divider =
    s.divider := rfl
@[simp] theorem setAgent_timebase (a : AgentId) (x : Agent) : (s.setAgent a x).timebase =
    s.timebase := rfl
@[simp] theorem setAgent_deadlines (a : AgentId) (x : Agent) : (s.setAgent a x).deadlines =
    s.deadlines := rfl
@[simp] theorem setAgent_handedOver (a : AgentId) (x : Agent) : (s.setAgent a x).handedOver =
    s.handedOver := rfl
@[simp] theorem setAgent_draws (a : AgentId) (x : Agent) : (s.setAgent a x).draws = s.draws := rfl
@[simp] theorem setAgent_pending (a : AgentId) (x : Agent) : (s.setAgent a x).pending =
    s.pending := rfl
@[simp] theorem setAgent_queue (a : AgentId) (x : Agent) (i : QueueId) : (s.setAgent a x).queue i =
    s.queue i := rfl
@[simp] theorem setAgent_pool (a : AgentId) (x : Agent) (i : PoolId) : (s.setAgent a x).pool i =
    s.pool i := rfl
@[simp] theorem setAgent_freeList (a : AgentId) (x : Agent) (i : PoolId) : (s.setAgent a x).freeList i =
    s.freeList i := rfl
@[simp] theorem setAgent_frame (a : AgentId) (x : Agent) (i : FrameIdx) : (s.setAgent a x).frame i =
    s.frame i := rfl
@[simp] theorem setAgent_entry (a : AgentId) (x : Agent) (i : EntryId) : (s.setAgent a x).entry i =
    s.entry i := rfl
@[simp] theorem setAgent_group (a : AgentId) (x : Agent) (i : GroupId) : (s.setAgent a x).group i =
    s.group i := rfl

/-! ### `setQueue` -/

@[simp] theorem setQueue_controller (q : QueueId) (x : Queue) : (s.setQueue q x).controller =
    s.controller := rfl
@[simp] theorem setQueue_porst (q : QueueId) (x : Queue) : (s.setQueue q x).porst = s.porst := rfl
@[simp] theorem setQueue_rstA (q : QueueId) (x : Queue) : (s.setQueue q x).rstA = s.rstA := rfl
@[simp] theorem setQueue_rstB (q : QueueId) (x : Queue) : (s.setQueue q x).rstB = s.rstB := rfl
@[simp] theorem setQueue_heldA (q : QueueId) (x : Queue) : (s.setQueue q x).heldA = s.heldA := rfl
@[simp] theorem setQueue_heldB (q : QueueId) (x : Queue) : (s.setQueue q x).heldB = s.heldB := rfl
@[simp] theorem setQueue_dataA (q : QueueId) (x : Queue) : (s.setQueue q x).dataA = s.dataA := rfl
@[simp] theorem setQueue_dataB (q : QueueId) (x : Queue) : (s.setQueue q x).dataB = s.dataB := rfl
@[simp] theorem setQueue_pools (q : QueueId) (x : Queue) : (s.setQueue q x).pools = s.pools := rfl
@[simp] theorem setQueue_events (q : QueueId) (x : Queue) : (s.setQueue q x).events =
    s.events := rfl
@[simp] theorem setQueue_eventsLost (q : QueueId) (x : Queue) : (s.setQueue q x).eventsLost =
    s.eventsLost := rfl
@[simp] theorem setQueue_eventDetail (q : QueueId) (x : Queue) : (s.setQueue q x).eventDetail =
    s.eventDetail := rfl
@[simp] theorem setQueue_supervisorEnable (q : QueueId) (x : Queue) : (s.setQueue q x).supervisorEnable =
    s.supervisorEnable := rfl
@[simp] theorem setQueue_controlResult (q : QueueId) (x : Queue) : (s.setQueue q x).controlResult =
    s.controlResult := rfl
@[simp] theorem setQueue_frames (q : QueueId) (x : Queue) : (s.setQueue q x).frames =
    s.frames := rfl
@[simp] theorem setQueue_built (q : QueueId) (x : Queue) : (s.setQueue q x).built = s.built := rfl
@[simp] theorem setQueue_activeTotal (q : QueueId) (x : Queue) : (s.setQueue q x).activeTotal =
    s.activeTotal := rfl
@[simp] theorem setQueue_freeLists (q : QueueId) (x : Queue) : (s.setQueue q x).freeLists =
    s.freeLists := rfl
@[simp] theorem setQueue_scrubList (q : QueueId) (x : Queue) : (s.setQueue q x).scrubList =
    s.scrubList := rfl
@[simp] theorem setQueue_mem (q : QueueId) (x : Queue) : (s.setQueue q x).mem = s.mem := rfl
@[simp] theorem setQueue_entries (q : QueueId) (x : Queue) : (s.setQueue q x).entries =
    s.entries := rfl
@[simp] theorem setQueue_freeEntries (q : QueueId) (x : Queue) : (s.setQueue q x).freeEntries =
    s.freeEntries := rfl
@[simp] theorem setQueue_queues (q : QueueId) (x : Queue) : (s.setQueue q x).queues =
    s.queues.set q x := rfl
@[simp] theorem setQueue_groups (q : QueueId) (x : Queue) : (s.setQueue q x).groups =
    s.groups := rfl
@[simp] theorem setQueue_deadLetter (q : QueueId) (x : Queue) : (s.setQueue q x).deadLetter =
    s.deadLetter := rfl
@[simp] theorem setQueue_agents (q : QueueId) (x : Queue) : (s.setQueue q x).agents =
    s.agents := rfl
@[simp] theorem setQueue_prescaler (q : QueueId) (x : Queue) : (s.setQueue q x).prescaler =
    s.prescaler := rfl
@[simp] theorem setQueue_tickLength (q : QueueId) (x : Queue) : (s.setQueue q x).tickLength =
    s.tickLength := rfl
@[simp] theorem setQueue_divider (q : QueueId) (x : Queue) : (s.setQueue q x).divider =
    s.divider := rfl
@[simp] theorem setQueue_timebase (q : QueueId) (x : Queue) : (s.setQueue q x).timebase =
    s.timebase := rfl
@[simp] theorem setQueue_deadlines (q : QueueId) (x : Queue) : (s.setQueue q x).deadlines =
    s.deadlines := rfl
@[simp] theorem setQueue_handedOver (q : QueueId) (x : Queue) : (s.setQueue q x).handedOver =
    s.handedOver := rfl
@[simp] theorem setQueue_draws (q : QueueId) (x : Queue) : (s.setQueue q x).draws = s.draws := rfl
@[simp] theorem setQueue_pending (q : QueueId) (x : Queue) : (s.setQueue q x).pending =
    s.pending := rfl
@[simp] theorem setQueue_agent (q : QueueId) (x : Queue) (i : AgentId) : (s.setQueue q x).agent i =
    s.agent i := rfl
@[simp] theorem setQueue_pool (q : QueueId) (x : Queue) (i : PoolId) : (s.setQueue q x).pool i =
    s.pool i := rfl
@[simp] theorem setQueue_freeList (q : QueueId) (x : Queue) (i : PoolId) : (s.setQueue q x).freeList i =
    s.freeList i := rfl
@[simp] theorem setQueue_frame (q : QueueId) (x : Queue) (i : FrameIdx) : (s.setQueue q x).frame i =
    s.frame i := rfl
@[simp] theorem setQueue_entry (q : QueueId) (x : Queue) (i : EntryId) : (s.setQueue q x).entry i =
    s.entry i := rfl
@[simp] theorem setQueue_group (q : QueueId) (x : Queue) (i : GroupId) : (s.setQueue q x).group i =
    s.group i := rfl

/-! ### `setPool` -/

@[simp] theorem setPool_controller (p : PoolId) (x : Pool) : (s.setPool p x).controller =
    s.controller := rfl
@[simp] theorem setPool_porst (p : PoolId) (x : Pool) : (s.setPool p x).porst = s.porst := rfl
@[simp] theorem setPool_rstA (p : PoolId) (x : Pool) : (s.setPool p x).rstA = s.rstA := rfl
@[simp] theorem setPool_rstB (p : PoolId) (x : Pool) : (s.setPool p x).rstB = s.rstB := rfl
@[simp] theorem setPool_heldA (p : PoolId) (x : Pool) : (s.setPool p x).heldA = s.heldA := rfl
@[simp] theorem setPool_heldB (p : PoolId) (x : Pool) : (s.setPool p x).heldB = s.heldB := rfl
@[simp] theorem setPool_dataA (p : PoolId) (x : Pool) : (s.setPool p x).dataA = s.dataA := rfl
@[simp] theorem setPool_dataB (p : PoolId) (x : Pool) : (s.setPool p x).dataB = s.dataB := rfl
@[simp] theorem setPool_pools (p : PoolId) (x : Pool) : (s.setPool p x).pools =
    s.pools.set p x := rfl
@[simp] theorem setPool_events (p : PoolId) (x : Pool) : (s.setPool p x).events = s.events := rfl
@[simp] theorem setPool_eventsLost (p : PoolId) (x : Pool) : (s.setPool p x).eventsLost =
    s.eventsLost := rfl
@[simp] theorem setPool_eventDetail (p : PoolId) (x : Pool) : (s.setPool p x).eventDetail =
    s.eventDetail := rfl
@[simp] theorem setPool_supervisorEnable (p : PoolId) (x : Pool) : (s.setPool p x).supervisorEnable =
    s.supervisorEnable := rfl
@[simp] theorem setPool_controlResult (p : PoolId) (x : Pool) : (s.setPool p x).controlResult =
    s.controlResult := rfl
@[simp] theorem setPool_frames (p : PoolId) (x : Pool) : (s.setPool p x).frames = s.frames := rfl
@[simp] theorem setPool_built (p : PoolId) (x : Pool) : (s.setPool p x).built = s.built := rfl
@[simp] theorem setPool_activeTotal (p : PoolId) (x : Pool) : (s.setPool p x).activeTotal =
    s.activeTotal := rfl
@[simp] theorem setPool_freeLists (p : PoolId) (x : Pool) : (s.setPool p x).freeLists =
    s.freeLists := rfl
@[simp] theorem setPool_scrubList (p : PoolId) (x : Pool) : (s.setPool p x).scrubList =
    s.scrubList := rfl
@[simp] theorem setPool_mem (p : PoolId) (x : Pool) : (s.setPool p x).mem = s.mem := rfl
@[simp] theorem setPool_entries (p : PoolId) (x : Pool) : (s.setPool p x).entries = s.entries := rfl
@[simp] theorem setPool_freeEntries (p : PoolId) (x : Pool) : (s.setPool p x).freeEntries =
    s.freeEntries := rfl
@[simp] theorem setPool_queues (p : PoolId) (x : Pool) : (s.setPool p x).queues = s.queues := rfl
@[simp] theorem setPool_groups (p : PoolId) (x : Pool) : (s.setPool p x).groups = s.groups := rfl
@[simp] theorem setPool_deadLetter (p : PoolId) (x : Pool) : (s.setPool p x).deadLetter =
    s.deadLetter := rfl
@[simp] theorem setPool_agents (p : PoolId) (x : Pool) : (s.setPool p x).agents = s.agents := rfl
@[simp] theorem setPool_prescaler (p : PoolId) (x : Pool) : (s.setPool p x).prescaler =
    s.prescaler := rfl
@[simp] theorem setPool_tickLength (p : PoolId) (x : Pool) : (s.setPool p x).tickLength =
    s.tickLength := rfl
@[simp] theorem setPool_divider (p : PoolId) (x : Pool) : (s.setPool p x).divider = s.divider := rfl
@[simp] theorem setPool_timebase (p : PoolId) (x : Pool) : (s.setPool p x).timebase =
    s.timebase := rfl
@[simp] theorem setPool_deadlines (p : PoolId) (x : Pool) : (s.setPool p x).deadlines =
    s.deadlines := rfl
@[simp] theorem setPool_handedOver (p : PoolId) (x : Pool) : (s.setPool p x).handedOver =
    s.handedOver := rfl
@[simp] theorem setPool_draws (p : PoolId) (x : Pool) : (s.setPool p x).draws = s.draws := rfl
@[simp] theorem setPool_pending (p : PoolId) (x : Pool) : (s.setPool p x).pending = s.pending := rfl
@[simp] theorem setPool_agent (p : PoolId) (x : Pool) (i : AgentId) : (s.setPool p x).agent i =
    s.agent i := rfl
@[simp] theorem setPool_queue (p : PoolId) (x : Pool) (i : QueueId) : (s.setPool p x).queue i =
    s.queue i := rfl
@[simp] theorem setPool_freeList (p : PoolId) (x : Pool) (i : PoolId) : (s.setPool p x).freeList i =
    s.freeList i := rfl
@[simp] theorem setPool_frame (p : PoolId) (x : Pool) (i : FrameIdx) : (s.setPool p x).frame i =
    s.frame i := rfl
@[simp] theorem setPool_entry (p : PoolId) (x : Pool) (i : EntryId) : (s.setPool p x).entry i =
    s.entry i := rfl
@[simp] theorem setPool_group (p : PoolId) (x : Pool) (i : GroupId) : (s.setPool p x).group i =
    s.group i := rfl

/-! ### `setFreeList` -/

@[simp] theorem setFreeList_controller (p : PoolId) (l : List FrameIdx) : (s.setFreeList p l).controller =
    s.controller := rfl
@[simp] theorem setFreeList_porst (p : PoolId) (l : List FrameIdx) : (s.setFreeList p l).porst =
    s.porst := rfl
@[simp] theorem setFreeList_rstA (p : PoolId) (l : List FrameIdx) : (s.setFreeList p l).rstA =
    s.rstA := rfl
@[simp] theorem setFreeList_rstB (p : PoolId) (l : List FrameIdx) : (s.setFreeList p l).rstB =
    s.rstB := rfl
@[simp] theorem setFreeList_heldA (p : PoolId) (l : List FrameIdx) : (s.setFreeList p l).heldA =
    s.heldA := rfl
@[simp] theorem setFreeList_heldB (p : PoolId) (l : List FrameIdx) : (s.setFreeList p l).heldB =
    s.heldB := rfl
@[simp] theorem setFreeList_dataA (p : PoolId) (l : List FrameIdx) : (s.setFreeList p l).dataA =
    s.dataA := rfl
@[simp] theorem setFreeList_dataB (p : PoolId) (l : List FrameIdx) : (s.setFreeList p l).dataB =
    s.dataB := rfl
@[simp] theorem setFreeList_pools (p : PoolId) (l : List FrameIdx) : (s.setFreeList p l).pools =
    s.pools := rfl
@[simp] theorem setFreeList_events (p : PoolId) (l : List FrameIdx) : (s.setFreeList p l).events =
    s.events := rfl
@[simp] theorem setFreeList_eventsLost (p : PoolId) (l : List FrameIdx) : (s.setFreeList p l).eventsLost =
    s.eventsLost := rfl
@[simp] theorem setFreeList_eventDetail (p : PoolId) (l : List FrameIdx) : (s.setFreeList p l).eventDetail =
    s.eventDetail := rfl
@[simp] theorem setFreeList_supervisorEnable (p : PoolId) (l : List FrameIdx) : (s.setFreeList p l).supervisorEnable =
    s.supervisorEnable := rfl
@[simp] theorem setFreeList_controlResult (p : PoolId) (l : List FrameIdx) : (s.setFreeList p l).controlResult =
    s.controlResult := rfl
@[simp] theorem setFreeList_frames (p : PoolId) (l : List FrameIdx) : (s.setFreeList p l).frames =
    s.frames := rfl
@[simp] theorem setFreeList_built (p : PoolId) (l : List FrameIdx) : (s.setFreeList p l).built =
    s.built := rfl
@[simp] theorem setFreeList_activeTotal (p : PoolId) (l : List FrameIdx) : (s.setFreeList p l).activeTotal =
    s.activeTotal := rfl
@[simp] theorem setFreeList_freeLists (p : PoolId) (l : List FrameIdx) : (s.setFreeList p l).freeLists =
    s.freeLists.set p l := rfl
@[simp] theorem setFreeList_scrubList (p : PoolId) (l : List FrameIdx) : (s.setFreeList p l).scrubList =
    s.scrubList := rfl
@[simp] theorem setFreeList_mem (p : PoolId) (l : List FrameIdx) : (s.setFreeList p l).mem =
    s.mem := rfl
@[simp] theorem setFreeList_entries (p : PoolId) (l : List FrameIdx) : (s.setFreeList p l).entries =
    s.entries := rfl
@[simp] theorem setFreeList_freeEntries (p : PoolId) (l : List FrameIdx) : (s.setFreeList p l).freeEntries =
    s.freeEntries := rfl
@[simp] theorem setFreeList_queues (p : PoolId) (l : List FrameIdx) : (s.setFreeList p l).queues =
    s.queues := rfl
@[simp] theorem setFreeList_groups (p : PoolId) (l : List FrameIdx) : (s.setFreeList p l).groups =
    s.groups := rfl
@[simp] theorem setFreeList_deadLetter (p : PoolId) (l : List FrameIdx) : (s.setFreeList p l).deadLetter =
    s.deadLetter := rfl
@[simp] theorem setFreeList_agents (p : PoolId) (l : List FrameIdx) : (s.setFreeList p l).agents =
    s.agents := rfl
@[simp] theorem setFreeList_prescaler (p : PoolId) (l : List FrameIdx) : (s.setFreeList p l).prescaler =
    s.prescaler := rfl
@[simp] theorem setFreeList_tickLength (p : PoolId) (l : List FrameIdx) : (s.setFreeList p l).tickLength =
    s.tickLength := rfl
@[simp] theorem setFreeList_divider (p : PoolId) (l : List FrameIdx) : (s.setFreeList p l).divider =
    s.divider := rfl
@[simp] theorem setFreeList_timebase (p : PoolId) (l : List FrameIdx) : (s.setFreeList p l).timebase =
    s.timebase := rfl
@[simp] theorem setFreeList_deadlines (p : PoolId) (l : List FrameIdx) : (s.setFreeList p l).deadlines =
    s.deadlines := rfl
@[simp] theorem setFreeList_handedOver (p : PoolId) (l : List FrameIdx) : (s.setFreeList p l).handedOver =
    s.handedOver := rfl
@[simp] theorem setFreeList_draws (p : PoolId) (l : List FrameIdx) : (s.setFreeList p l).draws =
    s.draws := rfl
@[simp] theorem setFreeList_pending (p : PoolId) (l : List FrameIdx) : (s.setFreeList p l).pending =
    s.pending := rfl
@[simp] theorem setFreeList_agent (p : PoolId) (l : List FrameIdx) (i : AgentId) : (s.setFreeList p l).agent i =
    s.agent i := rfl
@[simp] theorem setFreeList_queue (p : PoolId) (l : List FrameIdx) (i : QueueId) : (s.setFreeList p l).queue i =
    s.queue i := rfl
@[simp] theorem setFreeList_pool (p : PoolId) (l : List FrameIdx) (i : PoolId) : (s.setFreeList p l).pool i =
    s.pool i := rfl
@[simp] theorem setFreeList_frame (p : PoolId) (l : List FrameIdx) (i : FrameIdx) : (s.setFreeList p l).frame i =
    s.frame i := rfl
@[simp] theorem setFreeList_entry (p : PoolId) (l : List FrameIdx) (i : EntryId) : (s.setFreeList p l).entry i =
    s.entry i := rfl
@[simp] theorem setFreeList_group (p : PoolId) (l : List FrameIdx) (i : GroupId) : (s.setFreeList p l).group i =
    s.group i := rfl

/-! ### `setFrame` -/

@[simp] theorem setFrame_controller (f : FrameIdx) (x : Frame) : (s.setFrame f x).controller =
    s.controller := rfl
@[simp] theorem setFrame_porst (f : FrameIdx) (x : Frame) : (s.setFrame f x).porst = s.porst := rfl
@[simp] theorem setFrame_rstA (f : FrameIdx) (x : Frame) : (s.setFrame f x).rstA = s.rstA := rfl
@[simp] theorem setFrame_rstB (f : FrameIdx) (x : Frame) : (s.setFrame f x).rstB = s.rstB := rfl
@[simp] theorem setFrame_heldA (f : FrameIdx) (x : Frame) : (s.setFrame f x).heldA = s.heldA := rfl
@[simp] theorem setFrame_heldB (f : FrameIdx) (x : Frame) : (s.setFrame f x).heldB = s.heldB := rfl
@[simp] theorem setFrame_dataA (f : FrameIdx) (x : Frame) : (s.setFrame f x).dataA = s.dataA := rfl
@[simp] theorem setFrame_dataB (f : FrameIdx) (x : Frame) : (s.setFrame f x).dataB = s.dataB := rfl
@[simp] theorem setFrame_pools (f : FrameIdx) (x : Frame) : (s.setFrame f x).pools = s.pools := rfl
@[simp] theorem setFrame_events (f : FrameIdx) (x : Frame) : (s.setFrame f x).events =
    s.events := rfl
@[simp] theorem setFrame_eventsLost (f : FrameIdx) (x : Frame) : (s.setFrame f x).eventsLost =
    s.eventsLost := rfl
@[simp] theorem setFrame_eventDetail (f : FrameIdx) (x : Frame) : (s.setFrame f x).eventDetail =
    s.eventDetail := rfl
@[simp] theorem setFrame_supervisorEnable (f : FrameIdx) (x : Frame) : (s.setFrame f x).supervisorEnable =
    s.supervisorEnable := rfl
@[simp] theorem setFrame_controlResult (f : FrameIdx) (x : Frame) : (s.setFrame f x).controlResult =
    s.controlResult := rfl
@[simp] theorem setFrame_frames (f : FrameIdx) (x : Frame) : (s.setFrame f x).frames =
    s.frames.set f x := rfl
@[simp] theorem setFrame_built (f : FrameIdx) (x : Frame) : (s.setFrame f x).built = s.built := rfl
@[simp] theorem setFrame_activeTotal (f : FrameIdx) (x : Frame) : (s.setFrame f x).activeTotal =
    s.activeTotal := rfl
@[simp] theorem setFrame_freeLists (f : FrameIdx) (x : Frame) : (s.setFrame f x).freeLists =
    s.freeLists := rfl
@[simp] theorem setFrame_scrubList (f : FrameIdx) (x : Frame) : (s.setFrame f x).scrubList =
    s.scrubList := rfl
@[simp] theorem setFrame_mem (f : FrameIdx) (x : Frame) : (s.setFrame f x).mem = s.mem := rfl
@[simp] theorem setFrame_entries (f : FrameIdx) (x : Frame) : (s.setFrame f x).entries =
    s.entries := rfl
@[simp] theorem setFrame_freeEntries (f : FrameIdx) (x : Frame) : (s.setFrame f x).freeEntries =
    s.freeEntries := rfl
@[simp] theorem setFrame_queues (f : FrameIdx) (x : Frame) : (s.setFrame f x).queues =
    s.queues := rfl
@[simp] theorem setFrame_groups (f : FrameIdx) (x : Frame) : (s.setFrame f x).groups =
    s.groups := rfl
@[simp] theorem setFrame_deadLetter (f : FrameIdx) (x : Frame) : (s.setFrame f x).deadLetter =
    s.deadLetter := rfl
@[simp] theorem setFrame_agents (f : FrameIdx) (x : Frame) : (s.setFrame f x).agents =
    s.agents := rfl
@[simp] theorem setFrame_prescaler (f : FrameIdx) (x : Frame) : (s.setFrame f x).prescaler =
    s.prescaler := rfl
@[simp] theorem setFrame_tickLength (f : FrameIdx) (x : Frame) : (s.setFrame f x).tickLength =
    s.tickLength := rfl
@[simp] theorem setFrame_divider (f : FrameIdx) (x : Frame) : (s.setFrame f x).divider =
    s.divider := rfl
@[simp] theorem setFrame_timebase (f : FrameIdx) (x : Frame) : (s.setFrame f x).timebase =
    s.timebase := rfl
@[simp] theorem setFrame_deadlines (f : FrameIdx) (x : Frame) : (s.setFrame f x).deadlines =
    s.deadlines := rfl
@[simp] theorem setFrame_handedOver (f : FrameIdx) (x : Frame) : (s.setFrame f x).handedOver =
    s.handedOver := rfl
@[simp] theorem setFrame_draws (f : FrameIdx) (x : Frame) : (s.setFrame f x).draws = s.draws := rfl
@[simp] theorem setFrame_pending (f : FrameIdx) (x : Frame) : (s.setFrame f x).pending =
    s.pending := rfl
@[simp] theorem setFrame_agent (f : FrameIdx) (x : Frame) (i : AgentId) : (s.setFrame f x).agent i =
    s.agent i := rfl
@[simp] theorem setFrame_queue (f : FrameIdx) (x : Frame) (i : QueueId) : (s.setFrame f x).queue i =
    s.queue i := rfl
@[simp] theorem setFrame_pool (f : FrameIdx) (x : Frame) (i : PoolId) : (s.setFrame f x).pool i =
    s.pool i := rfl
@[simp] theorem setFrame_freeList (f : FrameIdx) (x : Frame) (i : PoolId) : (s.setFrame f x).freeList i =
    s.freeList i := rfl
@[simp] theorem setFrame_entry (f : FrameIdx) (x : Frame) (i : EntryId) : (s.setFrame f x).entry i =
    s.entry i := rfl
@[simp] theorem setFrame_group (f : FrameIdx) (x : Frame) (i : GroupId) : (s.setFrame f x).group i =
    s.group i := rfl

/-! ### `setEntry` -/

@[simp] theorem setEntry_controller (e : EntryId) (x : Entry) : (s.setEntry e x).controller =
    s.controller := rfl
@[simp] theorem setEntry_porst (e : EntryId) (x : Entry) : (s.setEntry e x).porst = s.porst := rfl
@[simp] theorem setEntry_rstA (e : EntryId) (x : Entry) : (s.setEntry e x).rstA = s.rstA := rfl
@[simp] theorem setEntry_rstB (e : EntryId) (x : Entry) : (s.setEntry e x).rstB = s.rstB := rfl
@[simp] theorem setEntry_heldA (e : EntryId) (x : Entry) : (s.setEntry e x).heldA = s.heldA := rfl
@[simp] theorem setEntry_heldB (e : EntryId) (x : Entry) : (s.setEntry e x).heldB = s.heldB := rfl
@[simp] theorem setEntry_dataA (e : EntryId) (x : Entry) : (s.setEntry e x).dataA = s.dataA := rfl
@[simp] theorem setEntry_dataB (e : EntryId) (x : Entry) : (s.setEntry e x).dataB = s.dataB := rfl
@[simp] theorem setEntry_pools (e : EntryId) (x : Entry) : (s.setEntry e x).pools = s.pools := rfl
@[simp] theorem setEntry_events (e : EntryId) (x : Entry) : (s.setEntry e x).events =
    s.events := rfl
@[simp] theorem setEntry_eventsLost (e : EntryId) (x : Entry) : (s.setEntry e x).eventsLost =
    s.eventsLost := rfl
@[simp] theorem setEntry_eventDetail (e : EntryId) (x : Entry) : (s.setEntry e x).eventDetail =
    s.eventDetail := rfl
@[simp] theorem setEntry_supervisorEnable (e : EntryId) (x : Entry) : (s.setEntry e x).supervisorEnable =
    s.supervisorEnable := rfl
@[simp] theorem setEntry_controlResult (e : EntryId) (x : Entry) : (s.setEntry e x).controlResult =
    s.controlResult := rfl
@[simp] theorem setEntry_frames (e : EntryId) (x : Entry) : (s.setEntry e x).frames =
    s.frames := rfl
@[simp] theorem setEntry_built (e : EntryId) (x : Entry) : (s.setEntry e x).built = s.built := rfl
@[simp] theorem setEntry_activeTotal (e : EntryId) (x : Entry) : (s.setEntry e x).activeTotal =
    s.activeTotal := rfl
@[simp] theorem setEntry_freeLists (e : EntryId) (x : Entry) : (s.setEntry e x).freeLists =
    s.freeLists := rfl
@[simp] theorem setEntry_scrubList (e : EntryId) (x : Entry) : (s.setEntry e x).scrubList =
    s.scrubList := rfl
@[simp] theorem setEntry_mem (e : EntryId) (x : Entry) : (s.setEntry e x).mem = s.mem := rfl
@[simp] theorem setEntry_entries (e : EntryId) (x : Entry) : (s.setEntry e x).entries =
    s.entries.set e x := rfl
@[simp] theorem setEntry_freeEntries (e : EntryId) (x : Entry) : (s.setEntry e x).freeEntries =
    s.freeEntries := rfl
@[simp] theorem setEntry_queues (e : EntryId) (x : Entry) : (s.setEntry e x).queues =
    s.queues := rfl
@[simp] theorem setEntry_groups (e : EntryId) (x : Entry) : (s.setEntry e x).groups =
    s.groups := rfl
@[simp] theorem setEntry_deadLetter (e : EntryId) (x : Entry) : (s.setEntry e x).deadLetter =
    s.deadLetter := rfl
@[simp] theorem setEntry_agents (e : EntryId) (x : Entry) : (s.setEntry e x).agents =
    s.agents := rfl
@[simp] theorem setEntry_prescaler (e : EntryId) (x : Entry) : (s.setEntry e x).prescaler =
    s.prescaler := rfl
@[simp] theorem setEntry_tickLength (e : EntryId) (x : Entry) : (s.setEntry e x).tickLength =
    s.tickLength := rfl
@[simp] theorem setEntry_divider (e : EntryId) (x : Entry) : (s.setEntry e x).divider =
    s.divider := rfl
@[simp] theorem setEntry_timebase (e : EntryId) (x : Entry) : (s.setEntry e x).timebase =
    s.timebase := rfl
@[simp] theorem setEntry_deadlines (e : EntryId) (x : Entry) : (s.setEntry e x).deadlines =
    s.deadlines := rfl
@[simp] theorem setEntry_handedOver (e : EntryId) (x : Entry) : (s.setEntry e x).handedOver =
    s.handedOver := rfl
@[simp] theorem setEntry_draws (e : EntryId) (x : Entry) : (s.setEntry e x).draws = s.draws := rfl
@[simp] theorem setEntry_pending (e : EntryId) (x : Entry) : (s.setEntry e x).pending =
    s.pending := rfl
@[simp] theorem setEntry_agent (e : EntryId) (x : Entry) (i : AgentId) : (s.setEntry e x).agent i =
    s.agent i := rfl
@[simp] theorem setEntry_queue (e : EntryId) (x : Entry) (i : QueueId) : (s.setEntry e x).queue i =
    s.queue i := rfl
@[simp] theorem setEntry_pool (e : EntryId) (x : Entry) (i : PoolId) : (s.setEntry e x).pool i =
    s.pool i := rfl
@[simp] theorem setEntry_freeList (e : EntryId) (x : Entry) (i : PoolId) : (s.setEntry e x).freeList i =
    s.freeList i := rfl
@[simp] theorem setEntry_frame (e : EntryId) (x : Entry) (i : FrameIdx) : (s.setEntry e x).frame i =
    s.frame i := rfl
@[simp] theorem setEntry_group (e : EntryId) (x : Entry) (i : GroupId) : (s.setEntry e x).group i =
    s.group i := rfl

/-! ### `answer` -/

@[simp] theorem answer_controller (a : AgentId) (c : ResultCode) (k : Action) (w : Word) : (s.answer a c k w).controller =
    s.controller := rfl
@[simp] theorem answer_porst (a : AgentId) (c : ResultCode) (k : Action) (w : Word) : (s.answer a c k w).porst =
    s.porst := rfl
@[simp] theorem answer_rstA (a : AgentId) (c : ResultCode) (k : Action) (w : Word) : (s.answer a c k w).rstA =
    s.rstA := rfl
@[simp] theorem answer_rstB (a : AgentId) (c : ResultCode) (k : Action) (w : Word) : (s.answer a c k w).rstB =
    s.rstB := rfl
@[simp] theorem answer_heldA (a : AgentId) (c : ResultCode) (k : Action) (w : Word) : (s.answer a c k w).heldA =
    s.heldA := rfl
@[simp] theorem answer_heldB (a : AgentId) (c : ResultCode) (k : Action) (w : Word) : (s.answer a c k w).heldB =
    s.heldB := rfl
@[simp] theorem answer_dataA (a : AgentId) (c : ResultCode) (k : Action) (w : Word) : (s.answer a c k w).dataA =
    s.dataA := rfl
@[simp] theorem answer_dataB (a : AgentId) (c : ResultCode) (k : Action) (w : Word) : (s.answer a c k w).dataB =
    s.dataB := rfl
@[simp] theorem answer_pools (a : AgentId) (c : ResultCode) (k : Action) (w : Word) : (s.answer a c k w).pools =
    s.pools := rfl
@[simp] theorem answer_events (a : AgentId) (c : ResultCode) (k : Action) (w : Word) : (s.answer a c k w).events =
    s.events := rfl
@[simp] theorem answer_eventsLost (a : AgentId) (c : ResultCode) (k : Action) (w : Word) : (s.answer a c k w).eventsLost =
    s.eventsLost := rfl
@[simp] theorem answer_eventDetail (a : AgentId) (c : ResultCode) (k : Action) (w : Word) : (s.answer a c k w).eventDetail =
    s.eventDetail := rfl
@[simp] theorem answer_supervisorEnable (a : AgentId) (c : ResultCode) (k : Action) (w : Word) : (s.answer a c k w).supervisorEnable =
    s.supervisorEnable := rfl
@[simp] theorem answer_controlResult (a : AgentId) (c : ResultCode) (k : Action) (w : Word) : (s.answer a c k w).controlResult =
    s.controlResult := rfl
@[simp] theorem answer_frames (a : AgentId) (c : ResultCode) (k : Action) (w : Word) : (s.answer a c k w).frames =
    s.frames := rfl
@[simp] theorem answer_built (a : AgentId) (c : ResultCode) (k : Action) (w : Word) : (s.answer a c k w).built =
    s.built := rfl
@[simp] theorem answer_activeTotal (a : AgentId) (c : ResultCode) (k : Action) (w : Word) : (s.answer a c k w).activeTotal =
    s.activeTotal := rfl
@[simp] theorem answer_freeLists (a : AgentId) (c : ResultCode) (k : Action) (w : Word) : (s.answer a c k w).freeLists =
    s.freeLists := rfl
@[simp] theorem answer_scrubList (a : AgentId) (c : ResultCode) (k : Action) (w : Word) : (s.answer a c k w).scrubList =
    s.scrubList := rfl
@[simp] theorem answer_mem (a : AgentId) (c : ResultCode) (k : Action) (w : Word) : (s.answer a c k w).mem =
    s.mem := rfl
@[simp] theorem answer_entries (a : AgentId) (c : ResultCode) (k : Action) (w : Word) : (s.answer a c k w).entries =
    s.entries := rfl
@[simp] theorem answer_freeEntries (a : AgentId) (c : ResultCode) (k : Action) (w : Word) : (s.answer a c k w).freeEntries =
    s.freeEntries := rfl
@[simp] theorem answer_queues (a : AgentId) (c : ResultCode) (k : Action) (w : Word) : (s.answer a c k w).queues =
    s.queues := rfl
@[simp] theorem answer_groups (a : AgentId) (c : ResultCode) (k : Action) (w : Word) : (s.answer a c k w).groups =
    s.groups := rfl
@[simp] theorem answer_deadLetter (a : AgentId) (c : ResultCode) (k : Action) (w : Word) : (s.answer a c k w).deadLetter =
    s.deadLetter := rfl
@[simp] theorem answer_agents (a : AgentId) (c : ResultCode) (k : Action) (w : Word) : (s.answer a c k w).agents =
    s.agents.set a { s.agent a with last := { code := c, action := k, operand := w } } := rfl
@[simp] theorem answer_prescaler (a : AgentId) (c : ResultCode) (k : Action) (w : Word) : (s.answer a c k w).prescaler =
    s.prescaler := rfl
@[simp] theorem answer_tickLength (a : AgentId) (c : ResultCode) (k : Action) (w : Word) : (s.answer a c k w).tickLength =
    s.tickLength := rfl
@[simp] theorem answer_divider (a : AgentId) (c : ResultCode) (k : Action) (w : Word) : (s.answer a c k w).divider =
    s.divider := rfl
@[simp] theorem answer_timebase (a : AgentId) (c : ResultCode) (k : Action) (w : Word) : (s.answer a c k w).timebase =
    s.timebase := rfl
@[simp] theorem answer_deadlines (a : AgentId) (c : ResultCode) (k : Action) (w : Word) : (s.answer a c k w).deadlines =
    s.deadlines := rfl
@[simp] theorem answer_handedOver (a : AgentId) (c : ResultCode) (k : Action) (w : Word) : (s.answer a c k w).handedOver =
    s.handedOver := rfl
@[simp] theorem answer_draws (a : AgentId) (c : ResultCode) (k : Action) (w : Word) : (s.answer a c k w).draws =
    s.draws := rfl
@[simp] theorem answer_pending (a : AgentId) (c : ResultCode) (k : Action) (w : Word) : (s.answer a c k w).pending =
    s.pending := rfl
@[simp] theorem answer_queue (a : AgentId) (c : ResultCode) (k : Action) (w : Word) (i : QueueId) : (s.answer a c k w).queue i =
    s.queue i := rfl
@[simp] theorem answer_pool (a : AgentId) (c : ResultCode) (k : Action) (w : Word) (i : PoolId) : (s.answer a c k w).pool i =
    s.pool i := rfl
@[simp] theorem answer_freeList (a : AgentId) (c : ResultCode) (k : Action) (w : Word) (i : PoolId) : (s.answer a c k w).freeList i =
    s.freeList i := rfl
@[simp] theorem answer_frame (a : AgentId) (c : ResultCode) (k : Action) (w : Word) (i : FrameIdx) : (s.answer a c k w).frame i =
    s.frame i := rfl
@[simp] theorem answer_entry (a : AgentId) (c : ResultCode) (k : Action) (w : Word) (i : EntryId) : (s.answer a c k w).entry i =
    s.entry i := rfl
@[simp] theorem answer_group (a : AgentId) (c : ResultCode) (k : Action) (w : Word) (i : GroupId) : (s.answer a c k w).group i =
    s.group i := rfl

/-! ### `controlAnswer` -/

@[simp] theorem controlAnswer_controller (c : ControlCode) (u : ControlSubject) (n : Nat) : (s.controlAnswer c u n).controller =
    s.controller := rfl
@[simp] theorem controlAnswer_porst (c : ControlCode) (u : ControlSubject) (n : Nat) : (s.controlAnswer c u n).porst =
    s.porst := rfl
@[simp] theorem controlAnswer_rstA (c : ControlCode) (u : ControlSubject) (n : Nat) : (s.controlAnswer c u n).rstA =
    s.rstA := rfl
@[simp] theorem controlAnswer_rstB (c : ControlCode) (u : ControlSubject) (n : Nat) : (s.controlAnswer c u n).rstB =
    s.rstB := rfl
@[simp] theorem controlAnswer_heldA (c : ControlCode) (u : ControlSubject) (n : Nat) : (s.controlAnswer c u n).heldA =
    s.heldA := rfl
@[simp] theorem controlAnswer_heldB (c : ControlCode) (u : ControlSubject) (n : Nat) : (s.controlAnswer c u n).heldB =
    s.heldB := rfl
@[simp] theorem controlAnswer_dataA (c : ControlCode) (u : ControlSubject) (n : Nat) : (s.controlAnswer c u n).dataA =
    s.dataA := rfl
@[simp] theorem controlAnswer_dataB (c : ControlCode) (u : ControlSubject) (n : Nat) : (s.controlAnswer c u n).dataB =
    s.dataB := rfl
@[simp] theorem controlAnswer_pools (c : ControlCode) (u : ControlSubject) (n : Nat) : (s.controlAnswer c u n).pools =
    s.pools := rfl
@[simp] theorem controlAnswer_events (c : ControlCode) (u : ControlSubject) (n : Nat) : (s.controlAnswer c u n).events =
    s.events := rfl
@[simp] theorem controlAnswer_eventsLost (c : ControlCode) (u : ControlSubject) (n : Nat) : (s.controlAnswer c u n).eventsLost =
    s.eventsLost := rfl
@[simp] theorem controlAnswer_eventDetail (c : ControlCode) (u : ControlSubject) (n : Nat) : (s.controlAnswer c u n).eventDetail =
    s.eventDetail := rfl
@[simp] theorem controlAnswer_supervisorEnable (c : ControlCode) (u : ControlSubject) (n : Nat) : (s.controlAnswer c u n).supervisorEnable =
    s.supervisorEnable := rfl
@[simp] theorem controlAnswer_controlResult (c : ControlCode) (u : ControlSubject) (n : Nat) : (s.controlAnswer c u n).controlResult =
    { code := c, subject := u, operand := BitVec.ofNat 8 n } := rfl
@[simp] theorem controlAnswer_frames (c : ControlCode) (u : ControlSubject) (n : Nat) : (s.controlAnswer c u n).frames =
    s.frames := rfl
@[simp] theorem controlAnswer_built (c : ControlCode) (u : ControlSubject) (n : Nat) : (s.controlAnswer c u n).built =
    s.built := rfl
@[simp] theorem controlAnswer_activeTotal (c : ControlCode) (u : ControlSubject) (n : Nat) : (s.controlAnswer c u n).activeTotal =
    s.activeTotal := rfl
@[simp] theorem controlAnswer_freeLists (c : ControlCode) (u : ControlSubject) (n : Nat) : (s.controlAnswer c u n).freeLists =
    s.freeLists := rfl
@[simp] theorem controlAnswer_scrubList (c : ControlCode) (u : ControlSubject) (n : Nat) : (s.controlAnswer c u n).scrubList =
    s.scrubList := rfl
@[simp] theorem controlAnswer_mem (c : ControlCode) (u : ControlSubject) (n : Nat) : (s.controlAnswer c u n).mem =
    s.mem := rfl
@[simp] theorem controlAnswer_entries (c : ControlCode) (u : ControlSubject) (n : Nat) : (s.controlAnswer c u n).entries =
    s.entries := rfl
@[simp] theorem controlAnswer_freeEntries (c : ControlCode) (u : ControlSubject) (n : Nat) : (s.controlAnswer c u n).freeEntries =
    s.freeEntries := rfl
@[simp] theorem controlAnswer_queues (c : ControlCode) (u : ControlSubject) (n : Nat) : (s.controlAnswer c u n).queues =
    s.queues := rfl
@[simp] theorem controlAnswer_groups (c : ControlCode) (u : ControlSubject) (n : Nat) : (s.controlAnswer c u n).groups =
    s.groups := rfl
@[simp] theorem controlAnswer_deadLetter (c : ControlCode) (u : ControlSubject) (n : Nat) : (s.controlAnswer c u n).deadLetter =
    s.deadLetter := rfl
@[simp] theorem controlAnswer_agents (c : ControlCode) (u : ControlSubject) (n : Nat) : (s.controlAnswer c u n).agents =
    s.agents := rfl
@[simp] theorem controlAnswer_prescaler (c : ControlCode) (u : ControlSubject) (n : Nat) : (s.controlAnswer c u n).prescaler =
    s.prescaler := rfl
@[simp] theorem controlAnswer_tickLength (c : ControlCode) (u : ControlSubject) (n : Nat) : (s.controlAnswer c u n).tickLength =
    s.tickLength := rfl
@[simp] theorem controlAnswer_divider (c : ControlCode) (u : ControlSubject) (n : Nat) : (s.controlAnswer c u n).divider =
    s.divider := rfl
@[simp] theorem controlAnswer_timebase (c : ControlCode) (u : ControlSubject) (n : Nat) : (s.controlAnswer c u n).timebase =
    s.timebase := rfl
@[simp] theorem controlAnswer_deadlines (c : ControlCode) (u : ControlSubject) (n : Nat) : (s.controlAnswer c u n).deadlines =
    s.deadlines := rfl
@[simp] theorem controlAnswer_handedOver (c : ControlCode) (u : ControlSubject) (n : Nat) : (s.controlAnswer c u n).handedOver =
    s.handedOver := rfl
@[simp] theorem controlAnswer_draws (c : ControlCode) (u : ControlSubject) (n : Nat) : (s.controlAnswer c u n).draws =
    s.draws := rfl
@[simp] theorem controlAnswer_pending (c : ControlCode) (u : ControlSubject) (n : Nat) : (s.controlAnswer c u n).pending =
    s.pending := rfl
@[simp] theorem controlAnswer_agent (c : ControlCode) (u : ControlSubject) (n : Nat) (i : AgentId) : (s.controlAnswer c u n).agent i =
    s.agent i := rfl
@[simp] theorem controlAnswer_queue (c : ControlCode) (u : ControlSubject) (n : Nat) (i : QueueId) : (s.controlAnswer c u n).queue i =
    s.queue i := rfl
@[simp] theorem controlAnswer_pool (c : ControlCode) (u : ControlSubject) (n : Nat) (i : PoolId) : (s.controlAnswer c u n).pool i =
    s.pool i := rfl
@[simp] theorem controlAnswer_freeList (c : ControlCode) (u : ControlSubject) (n : Nat) (i : PoolId) : (s.controlAnswer c u n).freeList i =
    s.freeList i := rfl
@[simp] theorem controlAnswer_frame (c : ControlCode) (u : ControlSubject) (n : Nat) (i : FrameIdx) : (s.controlAnswer c u n).frame i =
    s.frame i := rfl
@[simp] theorem controlAnswer_entry (c : ControlCode) (u : ControlSubject) (n : Nat) (i : EntryId) : (s.controlAnswer c u n).entry i =
    s.entry i := rfl
@[simp] theorem controlAnswer_group (c : ControlCode) (u : ControlSubject) (n : Nat) (i : GroupId) : (s.controlAnswer c u n).group i =
    s.group i := rfl

/-! ### `setResetLine` -/

@[simp] theorem setResetLine_controller (p : Port) (b : Bool) : (s.setResetLine p b).controller =
    s.controller := by cases p <;> rfl
@[simp] theorem setResetLine_porst (p : Port) (b : Bool) : (s.setResetLine p b).porst =
    s.porst := by cases p <;> rfl
@[simp] theorem setResetLine_heldA (p : Port) (b : Bool) : (s.setResetLine p b).heldA =
    s.heldA := by cases p <;> rfl
@[simp] theorem setResetLine_heldB (p : Port) (b : Bool) : (s.setResetLine p b).heldB =
    s.heldB := by cases p <;> rfl
@[simp] theorem setResetLine_dataA (p : Port) (b : Bool) : (s.setResetLine p b).dataA =
    s.dataA := by cases p <;> rfl
@[simp] theorem setResetLine_dataB (p : Port) (b : Bool) : (s.setResetLine p b).dataB =
    s.dataB := by cases p <;> rfl
@[simp] theorem setResetLine_pools (p : Port) (b : Bool) : (s.setResetLine p b).pools =
    s.pools := by cases p <;> rfl
@[simp] theorem setResetLine_events (p : Port) (b : Bool) : (s.setResetLine p b).events =
    s.events := by cases p <;> rfl
@[simp] theorem setResetLine_eventsLost (p : Port) (b : Bool) : (s.setResetLine p b).eventsLost =
    s.eventsLost := by cases p <;> rfl
@[simp] theorem setResetLine_eventDetail (p : Port) (b : Bool) : (s.setResetLine p b).eventDetail =
    s.eventDetail := by cases p <;> rfl
@[simp] theorem setResetLine_supervisorEnable (p : Port) (b : Bool) : (s.setResetLine p b).supervisorEnable =
    s.supervisorEnable := by cases p <;> rfl
@[simp] theorem setResetLine_controlResult (p : Port) (b : Bool) : (s.setResetLine p b).controlResult =
    s.controlResult := by cases p <;> rfl
@[simp] theorem setResetLine_frames (p : Port) (b : Bool) : (s.setResetLine p b).frames =
    s.frames := by cases p <;> rfl
@[simp] theorem setResetLine_built (p : Port) (b : Bool) : (s.setResetLine p b).built =
    s.built := by cases p <;> rfl
@[simp] theorem setResetLine_activeTotal (p : Port) (b : Bool) : (s.setResetLine p b).activeTotal =
    s.activeTotal := by cases p <;> rfl
@[simp] theorem setResetLine_freeLists (p : Port) (b : Bool) : (s.setResetLine p b).freeLists =
    s.freeLists := by cases p <;> rfl
@[simp] theorem setResetLine_scrubList (p : Port) (b : Bool) : (s.setResetLine p b).scrubList =
    s.scrubList := by cases p <;> rfl
@[simp] theorem setResetLine_mem (p : Port) (b : Bool) : (s.setResetLine p b).mem =
    s.mem := by cases p <;> rfl
@[simp] theorem setResetLine_entries (p : Port) (b : Bool) : (s.setResetLine p b).entries =
    s.entries := by cases p <;> rfl
@[simp] theorem setResetLine_freeEntries (p : Port) (b : Bool) : (s.setResetLine p b).freeEntries =
    s.freeEntries := by cases p <;> rfl
@[simp] theorem setResetLine_queues (p : Port) (b : Bool) : (s.setResetLine p b).queues =
    s.queues := by cases p <;> rfl
@[simp] theorem setResetLine_groups (p : Port) (b : Bool) : (s.setResetLine p b).groups =
    s.groups := by cases p <;> rfl
@[simp] theorem setResetLine_deadLetter (p : Port) (b : Bool) : (s.setResetLine p b).deadLetter =
    s.deadLetter := by cases p <;> rfl
@[simp] theorem setResetLine_agents (p : Port) (b : Bool) : (s.setResetLine p b).agents =
    s.agents := by cases p <;> rfl
@[simp] theorem setResetLine_prescaler (p : Port) (b : Bool) : (s.setResetLine p b).prescaler =
    s.prescaler := by cases p <;> rfl
@[simp] theorem setResetLine_tickLength (p : Port) (b : Bool) : (s.setResetLine p b).tickLength =
    s.tickLength := by cases p <;> rfl
@[simp] theorem setResetLine_divider (p : Port) (b : Bool) : (s.setResetLine p b).divider =
    s.divider := by cases p <;> rfl
@[simp] theorem setResetLine_timebase (p : Port) (b : Bool) : (s.setResetLine p b).timebase =
    s.timebase := by cases p <;> rfl
@[simp] theorem setResetLine_deadlines (p : Port) (b : Bool) : (s.setResetLine p b).deadlines =
    s.deadlines := by cases p <;> rfl
@[simp] theorem setResetLine_handedOver (p : Port) (b : Bool) : (s.setResetLine p b).handedOver =
    s.handedOver := by cases p <;> rfl
@[simp] theorem setResetLine_draws (p : Port) (b : Bool) : (s.setResetLine p b).draws =
    s.draws := by cases p <;> rfl
@[simp] theorem setResetLine_pending (p : Port) (b : Bool) : (s.setResetLine p b).pending =
    s.pending := by cases p <;> rfl
@[simp] theorem setResetLine_agent (p : Port) (b : Bool) (i : AgentId) : (s.setResetLine p b).agent i =
    s.agent i := by cases p <;> rfl
@[simp] theorem setResetLine_queue (p : Port) (b : Bool) (i : QueueId) : (s.setResetLine p b).queue i =
    s.queue i := by cases p <;> rfl
@[simp] theorem setResetLine_pool (p : Port) (b : Bool) (i : PoolId) : (s.setResetLine p b).pool i =
    s.pool i := by cases p <;> rfl
@[simp] theorem setResetLine_freeList (p : Port) (b : Bool) (i : PoolId) : (s.setResetLine p b).freeList i =
    s.freeList i := by cases p <;> rfl
@[simp] theorem setResetLine_frame (p : Port) (b : Bool) (i : FrameIdx) : (s.setResetLine p b).frame i =
    s.frame i := by cases p <;> rfl
@[simp] theorem setResetLine_entry (p : Port) (b : Bool) (i : EntryId) : (s.setResetLine p b).entry i =
    s.entry i := by cases p <;> rfl
@[simp] theorem setResetLine_group (p : Port) (b : Bool) (i : GroupId) : (s.setResetLine p b).group i =
    s.group i := by cases p <;> rfl

/-! ### `setHeldAccesses` -/

@[simp] theorem setHeldAccesses_controller (p : Port) (l : List HeldAccess) : (s.setHeldAccesses p l).controller =
    s.controller := by cases p <;> rfl
@[simp] theorem setHeldAccesses_porst (p : Port) (l : List HeldAccess) : (s.setHeldAccesses p l).porst =
    s.porst := by cases p <;> rfl
@[simp] theorem setHeldAccesses_rstA (p : Port) (l : List HeldAccess) : (s.setHeldAccesses p l).rstA =
    s.rstA := by cases p <;> rfl
@[simp] theorem setHeldAccesses_rstB (p : Port) (l : List HeldAccess) : (s.setHeldAccesses p l).rstB =
    s.rstB := by cases p <;> rfl
@[simp] theorem setHeldAccesses_dataA (p : Port) (l : List HeldAccess) : (s.setHeldAccesses p l).dataA =
    s.dataA := by cases p <;> rfl
@[simp] theorem setHeldAccesses_dataB (p : Port) (l : List HeldAccess) : (s.setHeldAccesses p l).dataB =
    s.dataB := by cases p <;> rfl
@[simp] theorem setHeldAccesses_pools (p : Port) (l : List HeldAccess) : (s.setHeldAccesses p l).pools =
    s.pools := by cases p <;> rfl
@[simp] theorem setHeldAccesses_events (p : Port) (l : List HeldAccess) : (s.setHeldAccesses p l).events =
    s.events := by cases p <;> rfl
@[simp] theorem setHeldAccesses_eventsLost (p : Port) (l : List HeldAccess) : (s.setHeldAccesses p l).eventsLost =
    s.eventsLost := by cases p <;> rfl
@[simp] theorem setHeldAccesses_eventDetail (p : Port) (l : List HeldAccess) : (s.setHeldAccesses p l).eventDetail =
    s.eventDetail := by cases p <;> rfl
@[simp] theorem setHeldAccesses_supervisorEnable (p : Port) (l : List HeldAccess) : (s.setHeldAccesses p l).supervisorEnable =
    s.supervisorEnable := by cases p <;> rfl
@[simp] theorem setHeldAccesses_controlResult (p : Port) (l : List HeldAccess) : (s.setHeldAccesses p l).controlResult =
    s.controlResult := by cases p <;> rfl
@[simp] theorem setHeldAccesses_frames (p : Port) (l : List HeldAccess) : (s.setHeldAccesses p l).frames =
    s.frames := by cases p <;> rfl
@[simp] theorem setHeldAccesses_built (p : Port) (l : List HeldAccess) : (s.setHeldAccesses p l).built =
    s.built := by cases p <;> rfl
@[simp] theorem setHeldAccesses_activeTotal (p : Port) (l : List HeldAccess) : (s.setHeldAccesses p l).activeTotal =
    s.activeTotal := by cases p <;> rfl
@[simp] theorem setHeldAccesses_freeLists (p : Port) (l : List HeldAccess) : (s.setHeldAccesses p l).freeLists =
    s.freeLists := by cases p <;> rfl
@[simp] theorem setHeldAccesses_scrubList (p : Port) (l : List HeldAccess) : (s.setHeldAccesses p l).scrubList =
    s.scrubList := by cases p <;> rfl
@[simp] theorem setHeldAccesses_mem (p : Port) (l : List HeldAccess) : (s.setHeldAccesses p l).mem =
    s.mem := by cases p <;> rfl
@[simp] theorem setHeldAccesses_entries (p : Port) (l : List HeldAccess) : (s.setHeldAccesses p l).entries =
    s.entries := by cases p <;> rfl
@[simp] theorem setHeldAccesses_freeEntries (p : Port) (l : List HeldAccess) : (s.setHeldAccesses p l).freeEntries =
    s.freeEntries := by cases p <;> rfl
@[simp] theorem setHeldAccesses_queues (p : Port) (l : List HeldAccess) : (s.setHeldAccesses p l).queues =
    s.queues := by cases p <;> rfl
@[simp] theorem setHeldAccesses_groups (p : Port) (l : List HeldAccess) : (s.setHeldAccesses p l).groups =
    s.groups := by cases p <;> rfl
@[simp] theorem setHeldAccesses_deadLetter (p : Port) (l : List HeldAccess) : (s.setHeldAccesses p l).deadLetter =
    s.deadLetter := by cases p <;> rfl
@[simp] theorem setHeldAccesses_agents (p : Port) (l : List HeldAccess) : (s.setHeldAccesses p l).agents =
    s.agents := by cases p <;> rfl
@[simp] theorem setHeldAccesses_prescaler (p : Port) (l : List HeldAccess) : (s.setHeldAccesses p l).prescaler =
    s.prescaler := by cases p <;> rfl
@[simp] theorem setHeldAccesses_tickLength (p : Port) (l : List HeldAccess) : (s.setHeldAccesses p l).tickLength =
    s.tickLength := by cases p <;> rfl
@[simp] theorem setHeldAccesses_divider (p : Port) (l : List HeldAccess) : (s.setHeldAccesses p l).divider =
    s.divider := by cases p <;> rfl
@[simp] theorem setHeldAccesses_timebase (p : Port) (l : List HeldAccess) : (s.setHeldAccesses p l).timebase =
    s.timebase := by cases p <;> rfl
@[simp] theorem setHeldAccesses_deadlines (p : Port) (l : List HeldAccess) : (s.setHeldAccesses p l).deadlines =
    s.deadlines := by cases p <;> rfl
@[simp] theorem setHeldAccesses_handedOver (p : Port) (l : List HeldAccess) : (s.setHeldAccesses p l).handedOver =
    s.handedOver := by cases p <;> rfl
@[simp] theorem setHeldAccesses_draws (p : Port) (l : List HeldAccess) : (s.setHeldAccesses p l).draws =
    s.draws := by cases p <;> rfl
@[simp] theorem setHeldAccesses_pending (p : Port) (l : List HeldAccess) : (s.setHeldAccesses p l).pending =
    s.pending := by cases p <;> rfl
@[simp] theorem setHeldAccesses_agent (p : Port) (l : List HeldAccess) (i : AgentId) : (s.setHeldAccesses p l).agent i =
    s.agent i := by cases p <;> rfl
@[simp] theorem setHeldAccesses_queue (p : Port) (l : List HeldAccess) (i : QueueId) : (s.setHeldAccesses p l).queue i =
    s.queue i := by cases p <;> rfl
@[simp] theorem setHeldAccesses_pool (p : Port) (l : List HeldAccess) (i : PoolId) : (s.setHeldAccesses p l).pool i =
    s.pool i := by cases p <;> rfl
@[simp] theorem setHeldAccesses_freeList (p : Port) (l : List HeldAccess) (i : PoolId) : (s.setHeldAccesses p l).freeList i =
    s.freeList i := by cases p <;> rfl
@[simp] theorem setHeldAccesses_frame (p : Port) (l : List HeldAccess) (i : FrameIdx) : (s.setHeldAccesses p l).frame i =
    s.frame i := by cases p <;> rfl
@[simp] theorem setHeldAccesses_entry (p : Port) (l : List HeldAccess) (i : EntryId) : (s.setHeldAccesses p l).entry i =
    s.entry i := by cases p <;> rfl
@[simp] theorem setHeldAccesses_group (p : Port) (l : List HeldAccess) (i : GroupId) : (s.setHeldAccesses p l).group i =
    s.group i := by cases p <;> rfl

/-! ### `returns` -/

@[simp] theorem returns_controller (p : Port) (w : Word) : (s.returns p w).controller =
    s.controller := by cases p <;> rfl
@[simp] theorem returns_porst (p : Port) (w : Word) : (s.returns p w).porst =
    s.porst := by cases p <;> rfl
@[simp] theorem returns_rstA (p : Port) (w : Word) : (s.returns p w).rstA =
    s.rstA := by cases p <;> rfl
@[simp] theorem returns_rstB (p : Port) (w : Word) : (s.returns p w).rstB =
    s.rstB := by cases p <;> rfl
@[simp] theorem returns_heldA (p : Port) (w : Word) : (s.returns p w).heldA =
    s.heldA := by cases p <;> rfl
@[simp] theorem returns_heldB (p : Port) (w : Word) : (s.returns p w).heldB =
    s.heldB := by cases p <;> rfl
@[simp] theorem returns_pools (p : Port) (w : Word) : (s.returns p w).pools =
    s.pools := by cases p <;> rfl
@[simp] theorem returns_events (p : Port) (w : Word) : (s.returns p w).events =
    s.events := by cases p <;> rfl
@[simp] theorem returns_eventsLost (p : Port) (w : Word) : (s.returns p w).eventsLost =
    s.eventsLost := by cases p <;> rfl
@[simp] theorem returns_eventDetail (p : Port) (w : Word) : (s.returns p w).eventDetail =
    s.eventDetail := by cases p <;> rfl
@[simp] theorem returns_supervisorEnable (p : Port) (w : Word) : (s.returns p w).supervisorEnable =
    s.supervisorEnable := by cases p <;> rfl
@[simp] theorem returns_controlResult (p : Port) (w : Word) : (s.returns p w).controlResult =
    s.controlResult := by cases p <;> rfl
@[simp] theorem returns_frames (p : Port) (w : Word) : (s.returns p w).frames =
    s.frames := by cases p <;> rfl
@[simp] theorem returns_built (p : Port) (w : Word) : (s.returns p w).built =
    s.built := by cases p <;> rfl
@[simp] theorem returns_activeTotal (p : Port) (w : Word) : (s.returns p w).activeTotal =
    s.activeTotal := by cases p <;> rfl
@[simp] theorem returns_freeLists (p : Port) (w : Word) : (s.returns p w).freeLists =
    s.freeLists := by cases p <;> rfl
@[simp] theorem returns_scrubList (p : Port) (w : Word) : (s.returns p w).scrubList =
    s.scrubList := by cases p <;> rfl
@[simp] theorem returns_mem (p : Port) (w : Word) : (s.returns p w).mem =
    s.mem := by cases p <;> rfl
@[simp] theorem returns_entries (p : Port) (w : Word) : (s.returns p w).entries =
    s.entries := by cases p <;> rfl
@[simp] theorem returns_freeEntries (p : Port) (w : Word) : (s.returns p w).freeEntries =
    s.freeEntries := by cases p <;> rfl
@[simp] theorem returns_queues (p : Port) (w : Word) : (s.returns p w).queues =
    s.queues := by cases p <;> rfl
@[simp] theorem returns_groups (p : Port) (w : Word) : (s.returns p w).groups =
    s.groups := by cases p <;> rfl
@[simp] theorem returns_deadLetter (p : Port) (w : Word) : (s.returns p w).deadLetter =
    s.deadLetter := by cases p <;> rfl
@[simp] theorem returns_agents (p : Port) (w : Word) : (s.returns p w).agents =
    s.agents := by cases p <;> rfl
@[simp] theorem returns_prescaler (p : Port) (w : Word) : (s.returns p w).prescaler =
    s.prescaler := by cases p <;> rfl
@[simp] theorem returns_tickLength (p : Port) (w : Word) : (s.returns p w).tickLength =
    s.tickLength := by cases p <;> rfl
@[simp] theorem returns_divider (p : Port) (w : Word) : (s.returns p w).divider =
    s.divider := by cases p <;> rfl
@[simp] theorem returns_timebase (p : Port) (w : Word) : (s.returns p w).timebase =
    s.timebase := by cases p <;> rfl
@[simp] theorem returns_deadlines (p : Port) (w : Word) : (s.returns p w).deadlines =
    s.deadlines := by cases p <;> rfl
@[simp] theorem returns_handedOver (p : Port) (w : Word) : (s.returns p w).handedOver =
    s.handedOver := by cases p <;> rfl
@[simp] theorem returns_draws (p : Port) (w : Word) : (s.returns p w).draws =
    s.draws := by cases p <;> rfl
@[simp] theorem returns_pending (p : Port) (w : Word) : (s.returns p w).pending =
    s.pending := by cases p <;> rfl
@[simp] theorem returns_agent (p : Port) (w : Word) (i : AgentId) : (s.returns p w).agent i =
    s.agent i := by cases p <;> rfl
@[simp] theorem returns_queue (p : Port) (w : Word) (i : QueueId) : (s.returns p w).queue i =
    s.queue i := by cases p <;> rfl
@[simp] theorem returns_pool (p : Port) (w : Word) (i : PoolId) : (s.returns p w).pool i =
    s.pool i := by cases p <;> rfl
@[simp] theorem returns_freeList (p : Port) (w : Word) (i : PoolId) : (s.returns p w).freeList i =
    s.freeList i := by cases p <;> rfl
@[simp] theorem returns_frame (p : Port) (w : Word) (i : FrameIdx) : (s.returns p w).frame i =
    s.frame i := by cases p <;> rfl
@[simp] theorem returns_entry (p : Port) (w : Word) (i : EntryId) : (s.returns p w).entry i =
    s.entry i := by cases p <;> rfl
@[simp] theorem returns_group (p : Port) (w : Word) (i : GroupId) : (s.returns p w).group i =
    s.group i := by cases p <;> rfl

/-! ### The record an update sets, and the others -/

theorem setAgent_agent (a i : AgentId) (x : Agent) :
    (s.setAgent a x).agent i = if i = a then x else s.agent i := Table.get_set _ _ _ _

@[simp] theorem setAgent_agent_self (a : AgentId) (x : Agent) : (s.setAgent a x).agent a = x :=
  Table.get_set_self _ _ _

@[simp] theorem setAgent_self (a : AgentId) : s.setAgent a (s.agent a) = s :=
  congrArg (fun x => { s with agents := x }) (Table.set_get _ _)

theorem setQueue_queue (q i : QueueId) (x : Queue) :
    (s.setQueue q x).queue i = if i = q then x else s.queue i := Table.get_set _ _ _ _

@[simp] theorem setQueue_queue_self (q : QueueId) (x : Queue) : (s.setQueue q x).queue q = x :=
  Table.get_set_self _ _ _

@[simp] theorem setQueue_self (q : QueueId) : s.setQueue q (s.queue q) = s :=
  congrArg (fun x => { s with queues := x }) (Table.set_get _ _)

theorem setPool_pool (p i : PoolId) (x : Pool) :
    (s.setPool p x).pool i = if i = p then x else s.pool i := Table.get_set _ _ _ _

@[simp] theorem setPool_pool_self (p : PoolId) (x : Pool) : (s.setPool p x).pool p = x :=
  Table.get_set_self _ _ _

@[simp] theorem setPool_self (p : PoolId) : s.setPool p (s.pool p) = s :=
  congrArg (fun x => { s with pools := x }) (Table.set_get _ _)

theorem setFreeList_freeList (p i : PoolId) (l : List FrameIdx) :
    (s.setFreeList p l).freeList i = if i = p then l else s.freeList i := Table.get_set _ _ _ _

@[simp] theorem setFreeList_freeList_self (p : PoolId) (l : List FrameIdx) : (s.setFreeList p l).freeList p = l :=
  Table.get_set_self _ _ _

@[simp] theorem setFreeList_self (p : PoolId) : s.setFreeList p (s.freeList p) = s :=
  congrArg (fun x => { s with freeLists := x }) (Table.set_get _ _)

theorem setFrame_frame (f i : FrameIdx) (x : Frame) :
    (s.setFrame f x).frame i = if i = f then x else s.frame i := Table.get_set _ _ _ _

@[simp] theorem setFrame_frame_self (f : FrameIdx) (x : Frame) : (s.setFrame f x).frame f = x :=
  Table.get_set_self _ _ _

@[simp] theorem setFrame_self (f : FrameIdx) : s.setFrame f (s.frame f) = s :=
  congrArg (fun x => { s with frames := x }) (Table.set_get _ _)

theorem setEntry_entry (e i : EntryId) (x : Entry) :
    (s.setEntry e x).entry i = if i = e then x else s.entry i := Table.get_set _ _ _ _

@[simp] theorem setEntry_entry_self (e : EntryId) (x : Entry) : (s.setEntry e x).entry e = x :=
  Table.get_set_self _ _ _

@[simp] theorem setEntry_self (e : EntryId) : s.setEntry e (s.entry e) = s :=
  congrArg (fun x => { s with entries := x }) (Table.set_get _ _)

theorem answer_agent (a i : AgentId) (c : ResultCode) (k : Action) (w : Word) :
    (s.answer a c k w).agent i =
      if i = a then { s.agent a with last := { code := c, action := k, operand := w } }
      else s.agent i := Table.get_set _ _ _ _

/-! ### The ports -/

@[simp] theorem resetLine_setResetLine_self (p : Port) (b : Bool) :
    (s.setResetLine p b).resetLine p = b := by cases p <;> rfl

@[simp] theorem heldAccesses_setHeldAccesses_self (p : Port) (l : List HeldAccess) :
    (s.setHeldAccesses p l).heldAccesses p = l := by cases p <;> rfl

@[simp] theorem data_returns_self (p : Port) (w : Word) : (s.returns p w).data p = w := by
  cases p <;> rfl

@[simp] theorem resetLine_returns (p i : Port) (w : Word) :
    (s.returns p w).resetLine i = s.resetLine i := by cases p <;> cases i <;> rfl

@[simp] theorem heldAccesses_returns (p i : Port) (w : Word) :
    (s.returns p w).heldAccesses i = s.heldAccesses i := by cases p <;> cases i <;> rfl

@[simp] theorem resetLine_setHeldAccesses (p i : Port) (l : List HeldAccess) :
    (s.setHeldAccesses p l).resetLine i = s.resetLine i := by cases p <;> cases i <;> rfl

@[simp] theorem heldAccesses_setResetLine (p i : Port) (b : Bool) :
    (s.setResetLine p b).heldAccesses i = s.heldAccesses i := by cases p <;> cases i <;> rfl

end Sys2Proof.Machine.State
end

