-- ==== Sys2Proof/Laws/Ops.lean ====
section
/-!
SUPPORT. One lemma for each shared operation: what the operation is, as one update of the records it can
change. Proofs cite these in place of unfolding the operation.
-/

namespace Sys2Proof.Machine

/-! ## The bus gate -/

/-- The common prefix answers as R111 lists it. -/
theorem commonPrefix_eq (s : State) (a : AgentId) : commonPrefix s a = prefixAnswer s a := by
  unfold commonPrefix prefixAnswer
  cases s.controller <;> cases (s.agent a).state <;> rfl

theorem Serves.prefix_none {s : State} {a : AgentId} (h : Serves s a) : commonPrefix s a = none := by
  simp [commonPrefix_eq, prefixAnswer, h.2.1, h.2.2]

/-- A port that takes accesses takes the access. -/
theorem takeAccess_of_takes {s : State} {p : Port} (h : PortTakes s p) (c : HeldAccess)
    (inInit : State → State) (run : State → Out) : takeAccess p c inInit run s = run s := by
  simp [takeAccess, h.1, h.2]

theorem Serves.portTakes {s : State} {a : AgentId} (h : Serves s a) : PortTakes s (agentPort a) :=
  ⟨h.1, by simp [h.2.1]⟩

/-- Everything an access can come to: it is held, it is completed without effect in INIT, or it runs. -/
theorem takeAccess_cases {p : Port} {c : HeldAccess} {inInit : State → State} {run : State → Out} {s : State}
    {o : Out} (h : takeAccess p c inInit run s = o) :
    s.resetLine p = true ∧ o = .next (s.setHeldAccesses p (s.heldAccesses p ++ [c])) ∨
      s.resetLine p = false ∧ s.controller = .init ∧ o = .next (inInit s) ∨
      PortTakes s p ∧ o = run s := by
  unfold takeAccess at h
  split at h
  · exact .inl ⟨‹_›, h.symm⟩
  · rename_i hl
    have hl := Bool.eq_false_iff.mpr hl
    split at h
    · exact .inr (.inl ⟨hl, ‹_›, h.symm⟩)
    · exact .inr (.inr ⟨⟨hl, ‹_›⟩, h.symm⟩)

/-! ## Ordered checks -/

@[simp] theorem firstRefusal_nil {β : Type} : firstRefusal ([] : List (Option β)) = none := rfl

/-- The first check decides, else the rest do. -/
theorem firstRefusal_cons {β : Type} (o : Option β) (l : List (Option β)) :
    firstRefusal (o :: l) = o.or (firstRefusal l) := by cases o <;> rfl

@[simp] theorem firstRefusal_refuseIf {β : Type} (fails : Bool) (r : β) (l : List (Option β)) :
    firstRefusal (refuseIf fails r :: l) = if fails = true then some r else firstRefusal l := by
  cases fails <;> rfl

/-! ## Notices and events -/

/-- Offering a notice changes the agent's context alone (R136). -/
theorem offerNotice_eq (a : AgentId) (n : Notice) (s : State) :
    offerNotice a n s = s.setAgent a (noticed (s.agent a) n) := by
  unfold offerNotice noticed
  by_cases h : (s.agent a).state = .online
  · by_cases hl : (s.agent a).notices.length < 16 <;> simp [h, hl, Config.listCapacity]
  · simp [h]

/-- Offering an event changes the event list and its lost flag alone (R142). -/
theorem offerEvent_eq (e : SupervisorEvent) (s : State) :
    offerEvent e s =
      { s with
        events := if s.events.length < 16 then s.events ++ [e] else s.events
        eventsLost := if s.events.length < 16 then s.eventsLost else true } := by
  unfold offerEvent
  by_cases h : s.events.length < 16 <;> simp [h, Config.listCapacity]

/-! ## Bindings -/

/-- Unbinding from a frame changes the agent's binding alone (R132). -/
theorem unbind_eq (a : AgentId) (f : FrameIdx) (s : State) :
    unbind a f s =
      s.setAgent a
        { s.agent a with
          binding := if boundTo s a f = true then none else (s.agent a).binding } := by
  unfold unbind
  by_cases h : boundTo s a f = true
  · simp [h]
  · simp only [h]
    exact (State.setAgent_self s a).symm

/-- Unbinding when no claim remains changes the agent's binding alone (R132, R133). -/
theorem unbindWithoutClaim_eq (a : AgentId) (f : FrameIdx) (s : State) :
    unbindWithoutClaim a f s =
      s.setAgent a
        { s.agent a with
          binding :=
            if boundTo s a f = true ∧ ∀ d ∈ (s.agent a).claims, (s.entry d).frame ≠ f then none
            else (s.agent a).binding } := by
  unfold unbindWithoutClaim claimsOn
  simp only [List.isEmpty_iff, List.filter_eq_nil_iff, beq_iff_eq]
  by_cases h : ∀ d ∈ (s.agent a).claims, ¬(s.entry d).frame = f
  · rw [if_pos h, unbind_eq]
    simp only [ne_eq, and_iff_left h]
  · rw [if_neg h]
    simp only [ne_eq, h, and_false, if_false]
    exact (State.setAgent_self s a).symm

/-! ## The free path -/

/-- The free path changes the frame's record, one free list or the scrub list, and the armed flag of the
pool (R15, R18). -/
theorem freePath_eq (f : FrameIdx) (s : State) :
    freePath f s =
      let x := s.frame f
      let p := x.pool
      let scrubs := (s.pool p).scrub = true
      { s with
        frames :=
          s.frames.set f
            (if scrubs then { x with state := .scrub }
            else { x with state := .free, generation := x.generation + 1 })
        scrubList := if scrubs then s.scrubList ++ [f] else s.scrubList
        freeLists := if scrubs then s.freeLists else s.freeLists.set p (s.freeList p ++ [f])
        pools :=
          if scrubs then s.pools
          else
            s.pools.set p
              { s.pool p with
                armed := (s.pool p).armed ||
                  decide ((s.pool p).lowWater ≤ (s.freeList p).length + 1) } } := by
  unfold freePath
  dsimp only
  split
  · simp only [State.setFrame]
  · simp only [reArmTest, joinFreeList, State.setFreeList_pool, State.setFrame_pool,
      State.setFreeList_freeList_self, List.length_append, List.length_singleton]
    split
    · rename_i h
      simp only [decide_eq_true h, Bool.or_true]
      rfl
    · rename_i h
      have e : s.pools.set (s.frame f).pool (s.pool (s.frame f).pool) = s.pools := Table.set_get _ _
      simp only [decide_eq_false h, Bool.or_false]
      exact congrArg (fun x => { (s.setFrame f _).setFreeList _ _ with pools := x }) e.symm

/-- The free path of a frame whose record has become `x` is what `TakesFreePath` says, and changes nothing
else. -/
theorem takesFreePath (f : FrameIdx) (x : Frame) (s : State) :
    TakesFreePath s (freePath f (s.setFrame f x)) f x ∧
      { freePath f (s.setFrame f x) with
        frames := s.frames, freeLists := s.freeLists, scrubList := s.scrubList, pools := s.pools } =
        s := by
  rw [freePath_eq]
  refine ⟨?_, rfl⟩
  unfold TakesFreePath
  by_cases h : (s.pool x.pool).scrub = true
  · simp only [State.setFrame_frame_self, State.setFrame_pool, State.setFrame_frames, h, if_true,
      Table.set_set]
    exact ⟨fun g => Table.get_set _ _ _ _, rfl, rfl, rfl⟩
  · simp only [State.setFrame_frame_self, State.setFrame_pool, State.setFrame_frames,
      State.setFrame_freeList, h, Bool.false_eq_true, if_false, Table.set_set]
    exact ⟨fun g => Table.get_set _ _ _ _, rfl, fun r => Table.get_set _ _ _ _,
      fun r => Table.get_set _ _ _ _⟩

/-- Dropping a reference lowers the count, and takes the frame down the free path at 0 (R6). -/
theorem dropReference_eq (f : FrameIdx) (s : State) :
    dropReference f s =
      if (s.frame f).refs ≤ 1 then freePath f (s.setFrame f { s.frame f with refs := 0 })
      else s.setFrame f { s.frame f with refs := (s.frame f).refs - 1 } := by
  unfold dropReference
  by_cases h : (s.frame f).refs ≤ 1
  · have h0 : (s.frame f).refs - 1 = 0 := by omega
    simp only [h0, h, if_true]
  · have h0 : (s.frame f).refs - 1 ≠ 0 := by omega
    simp only [h0, h, if_false]

/-- Dropping a reference is what `ReferenceDropped` says, and changes nothing else. -/
theorem referenceDropped (f : FrameIdx) (s : State) :
    ReferenceDropped s (dropReference f s) f ∧
      { dropReference f s with
        frames := s.frames, freeLists := s.freeLists, scrubList := s.scrubList, pools := s.pools } =
        s := by
  rw [dropReference_eq]
  unfold ReferenceDropped
  split
  · exact takesFreePath f _ s
  · exact ⟨⟨fun g => Table.get_set _ _ _ _, rfl, rfl, rfl⟩, rfl⟩

/-! ## Entries and claims -/

/-- Freeing an entry keeps its other fields (R21, R23). -/
theorem freeEntry_eq (e : EntryId) (s : State) :
    freeEntry e s =
      { s with
        entries := s.entries.set e { s.entry e with place := .free }
        freeEntries := s.freeEntries ++ [e] } := rfl

/-- The end of a claim changes the claim list, the entry's claimant and deadline, and the timer's two lists
(R70, R85). -/
theorem endClaim_eq (a : AgentId) (e : EntryId) (s : State) :
    endClaim a e s =
      { s with
        agents := s.agents.set a { s.agent a with claims := (s.agent a).claims.erase e }
        entries := s.entries.set e { s.entry e with claimant := none, deadline := none }
        deadlines := s.deadlines.erase e
        handedOver := s.handedOver.erase e } := by
  simp [endClaim, leaveDeadlines, State.setAgent, State.setEntry, State.entry]

/-- Drain completion changes the queue and makes the report, when it closes; else nothing (R99). -/
theorem drainCompletion_eq (q : QueueId) (s : State) :
    drainCompletion q s =
      if (s.queue q).state = .draining ∧ queuedCount s q = 0 ∧ claimCount s q = 0 then
        report (s.queue q).requester
          { kind := .queueClosed, queue := q, count := 0, outcome := .none, handle := none }
          (.queueClosed q) (s.setQueue q { s.queue q with state := .closed, requester := none })
      else s := rfl

/-- A queue that is not DRAINING does not close. -/
theorem drainCompletion_of_not_draining (q : QueueId) (s : State)
    (h : (s.queue q).state ≠ .draining) : drainCompletion q s = s := by
  rw [drainCompletion_eq, if_neg fun c => h c.1]

/-- A report goes to one agent, or to the supervisor event list (R100, R104). -/
theorem report_cases (r : Option Requester) (n : Notice) (e : SupervisorEvent) (s : State) :
    (∃ a, r = some (.agent a) ∧ report r n e s = s.setAgent a (noticed (s.agent a) n)) ∨
      r = some .control ∧ report r n e s = offerEvent e s ∨ r = none ∧ report r n e s = s := by
  rcases r with _ | ⟨a⟩ | _
  · exact .inr (.inr ⟨rfl, rfl⟩)
  · exact .inl ⟨a, rfl, offerNotice_eq a n s⟩
  · exact .inr (.inl ⟨rfl, rfl⟩)

/-- A return changes the entry's record and its home queue's lists alone (R87). -/
theorem returnEntry_eq (e : EntryId) (n : Nat) (s : State) :
    returnEntry e n s =
      { s with
        entries := s.entries.set e { s.entry e with place := .queued, redeliveries := n }
        queues :=
          s.queues.set (s.entry e).home
            ((s.queue (s.entry e).home).pushFront (s.entry e).cls e) } := rfl

/-- A created entry comes from the free-entry list and joins the tail of its class (R54). -/
theorem createEntry_cons (f : FrameIdx) (urgent : Bool) (q : QueueId) (s : State) (e : EntryId)
    (rest : List EntryId) (h : s.freeEntries = e :: rest) :
    createEntry f urgent q s =
      { s with
        freeEntries := rest
        entries :=
          s.entries.set e
            { place := .queued, frame := f, home := q, first := q, cls := classOf urgent,
              redeliveries := 0, claimant := none, deadline := none }
        queues := s.queues.set q ((s.queue q).pushTail (classOf urgent) e) } := by
  simp only [createEntry, h, State.setEntry, State.setQueue]

/-- A move is possible exactly when the five conditions of R88 hold. -/
theorem moveTarget_eq_some (s : State) (e : EntryId) (d : QueueId) :
    moveTarget s e = some d ↔ MayMoveTo s e d := by
  unfold moveTarget MayMoveTo
  have refers (r : QueueId) (f : FrameIdx) : refersFrom s r f = false ↔
      ∀ x, x ∈ (s.queue r).urgent ∨ x ∈ (s.queue r).normal ∨
        (∃ a, x ∈ (s.agent a).claims ∧ (s.entry x).home = r) → (s.entry x).frame ≠ f := by
    unfold refersFrom
    simp only [Bool.or_eq_false_iff, List.any_eq_false, List.mem_append, beq_iff_eq,
      List.mem_finRange, List.any_eq_true, Bool.and_eq_true, not_exists, not_and, true_implies]
    constructor
    · rintro ⟨h1, h2⟩ x (hx | hx | ⟨a, hx, hr⟩)
      · exact h1 x (.inl hx)
      · exact h1 x (.inr hx)
      · exact h2 a x hx hr
    · intro h
      exact ⟨fun x hx => h x (hx.imp id .inl), fun a x hx hr => h x (.inr (.inr ⟨a, hx, hr⟩))⟩
  cases s.deadLetter with
  | none => simp
  | some r =>
    simp only [Option.some.injEq, refers, hasRoom, decide_eq_true_eq]
    constructor
    · intro h
      split at h
      · rename_i hc
        cases h
        exact ⟨rfl, hc⟩
      · cases h
    · rintro ⟨rfl, hc⟩
      rw [if_pos hc]

theorem moveTarget_eq_none (s : State) (e : EntryId) :
    moveTarget s e = none ↔ ∀ d, ¬MayMoveTo s e d := by
  rw [← not_iff_not, not_forall]
  simp only [not_not, ← moveTarget_eq_some, ← Option.isSome_iff_exists, Option.isSome_iff_ne_none,
    ne_eq]

end Sys2Proof.Machine
end

