-- ==== Sys2Proof/Laws/QueueEngine.lean ====
section
/-!
SUPPORT. One lemma for each shared operation of the checks, of the queue engine and of the held accesses: what
it answers, or everything it changes.
-/

namespace Sys2Proof.Machine

/-! ## Handles and rights -/

/-- The bits that are 0 in every handle, field by field (R167). -/
theorem handleWellFormed_iff (h : Word) :
    handleWellFormed h = true ↔
      h.getLsbD 31 = true ∧ h.extractLsb' 21 10 = 0 ∧ h.extractLsb' 10 6 = 0 := by
  have key : h &&& 0x7FE0FC00#32 = 0 ↔ h.extractLsb' 21 10 = 0 ∧ h.extractLsb' 10 6 = 0 := by
    have bits (i : Nat) (hi : i < 32) : (h &&& 0x7FE0FC00#32).getLsbD i =
        (if 21 ≤ i ∧ i < 31 ∨ 10 ≤ i ∧ i < 16 then h.getLsbD i else false) := by
      simp only [BitVec.getLsbD_and]
      interval_cases i <;> simp
    constructor
    · intro e
      have z (i : Nat) (hi : i < 32) (hr : 21 ≤ i ∧ i < 31 ∨ 10 ≤ i ∧ i < 16) :
          h.getLsbD i = false := by
        have := bits i hi
        rw [e, if_pos hr] at this
        simpa using this.symm
      constructor <;> apply BitVec.eq_of_getLsbD_eq <;> intro i hi <;>
        simp only [BitVec.getLsbD_extractLsb', hi, decide_true, Bool.true_and]
      · simpa using z (21 + i) (by omega) (by omega)
      · simpa using z (10 + i) (by omega) (by omega)
    · rintro ⟨e1, e2⟩
      apply BitVec.eq_of_getLsbD_eq
      intro i hi
      rw [bits i hi]
      split
      · rename_i hr
        rcases hr with hr | hr
        · have := congrArg (fun x => BitVec.getLsbD x (i - 21)) e1
          simp only [BitVec.getLsbD_extractLsb', show i - 21 < 10 by omega, decide_true,
            Bool.true_and, show 21 + (i - 21) = i by omega] at this
          simpa using this
        · have := congrArg (fun x => BitVec.getLsbD x (i - 10)) e2
          simp only [BitVec.getLsbD_extractLsb', show i - 10 < 6 by omega, decide_true,
            Bool.true_and, show 10 + (i - 10) = i by omega] at this
          simpa using this
      · simp
  simp only [handleWellFormed, Bool.and_eq_true, beq_iff_eq, key]

/-- The handle check answers as R9 lists it. -/
theorem handleCheck_eq (s : State) (h : Word) : handleCheck s h = handleAnswer s h := by
  unfold handleCheck handleAnswer
  simp only [firstRefusal_refuseIf, firstRefusal_nil]
  refine if_congr ?_ rfl (if_congr ?_ rfl rfl)
  · rw [Bool.or_eq_true, Bool.not_eq_true', ← Bool.not_eq_true, handleWellFormed_iff, decide_eq_true_eq]
    cases h.getLsbD 31 <;> simp [handleIndex]
    tauto
  · simp only [Bool.or_eq_true, bne_iff_ne, beq_iff_eq, handleGeneration, or_assoc]
    rfl

/-- A handle that names a frame of the table passes the handle check. -/
theorem NamesFrame.check_none {s : State} {h : Word} (n : NamesFrame s h) : handleCheck s h = none := by
  obtain ⟨w, lt, g, st⟩ := n
  have : ¬s.activeTotal ≤ (handleIndex h).val := by omega
  rcases st with st | st <;> simp [handleCheck, w, this, g, st]

theorem holds_iff (s : State) (a : AgentId) (f : FrameIdx) :
    holds s a f = true ↔ (s.frame f).state = .held ∧ (s.frame f).holder = some a := by
  simp [holds]

theorem claimsOn_isEmpty_iff (s : State) (a : AgentId) (f : FrameIdx) :
    (claimsOn s a f).isEmpty = true ↔ ∀ e ∈ (s.agent a).claims, (s.entry e).frame ≠ f := by
  simp [claimsOn]

/-- The oldest claim on a frame is the first of the agent's claims on it (R70). -/
theorem OldestClaim.claimsOn_cons {s : State} {a : AgentId} {f : FrameIdx} {e : EntryId}
    (h : OldestClaim s a f e) : ∃ r, claimsOn s a f = e :: r := by
  obtain ⟨l, r, hc, he, hl⟩ := h
  unfold claimsOn
  rw [hc, List.filter_append, List.filter_eq_nil_iff.mpr (by simpa using hl)]
  simp [he]

/-- COMPLETE, TAKE and RELEASE find the oldest claim (R70). -/
theorem claimRefusal_none {s : State} {a : AgentId} {h : Word} {e : EntryId} (hs : Serves s a)
    (hn : NamesFrame s h) (ho : OldestClaim s a (handleIndex h) e) : claimRefusal s a h = none := by
  obtain ⟨r, hr⟩ := ho.claimsOn_cons
  simp [claimRefusal, firstRefusal_cons, hs.prefix_none, hn.check_none, hr, refuseIf]

/-- FREE, POST and REPLY pass their first checks (R14, R48, R59). -/
theorem holdRefusal_none {s : State} {a : AgentId} {h : Word} (hs : Serves s a) (hh : Holds s a h) :
    holdRefusal s a h = none := by
  simp [holdRefusal, firstRefusal_cons, hs.prefix_none, hh.1.check_none,
    (holds_iff s a (handleIndex h)).mpr hh.2, refuseIf]

/-- A queue that passes the destination test (R49). -/
theorem TakesPosts.destinationRefusal_none {s : State} {a : AgentId} {q : QueueId}
    (h : TakesPosts s a q) : destinationRefusal s a q = none := by
  obtain ⟨st, perm, room⟩ := h
  rcases st with st | st <;> simp [destinationRefusal, hasRoom, st, perm, room]

theorem destinationsRefusal_none {s : State} {a : AgentId} {qs : List QueueId}
    (h : ∀ q ∈ qs, TakesPosts s a q) : destinationsRefusal s a qs = none := by
  induction qs with
  | nil => rfl
  | cons q rest ih =>
    simp only [destinationsRefusal, (h q (by simp)).destinationRefusal_none]
    exact ih fun r hr => h r (by simp [hr])

/-! ## Posting -/

/-- The entry that a post of frame `f` creates on queue `q` (R54). -/
def newEntry (f : FrameIdx) (urgent : Bool) (q : QueueId) : Entry :=
  { place := .queued, frame := f, home := q, first := q, cls := classOf urgent, redeliveries := 0,
    claimant := none, deadline := none }

/-- The entries of a post: one from the front of the free-entry list for each queue, at the tail of its
class; no other queue and no other entry changes, and nothing else (R54). -/
theorem createEntries_spec (f : FrameIdx) (urgent : Bool) : ∀ (qs : List QueueId) (s : State),
    qs.length ≤ s.freeEntries.length → qs.Nodup → s.freeEntries.Nodup →
    let t := qs.foldl (fun s q => createEntry f urgent q s) s
    (∀ q e, (q, e) ∈ qs.zip s.freeEntries →
      t.queue q = (s.queue q).pushTail (classOf urgent) e ∧ t.entry e = newEntry f urgent q) ∧
    (∀ q, q ∉ qs → t.queue q = s.queue q) ∧
    (∀ e, e ∉ s.freeEntries.take qs.length → t.entry e = s.entry e) ∧
    t.freeEntries = s.freeEntries.drop qs.length ∧
    { t with queues := s.queues, entries := s.entries, freeEntries := s.freeEntries } = s := by
  intro qs
  induction qs with
  | nil => intro s _ _ _; exact ⟨by simp, by simp, by simp, by simp, rfl⟩
  | cons q qs ih =>
    intro s hlen hqs hes
    match hf : s.freeEntries with
    | [] => rw [hf] at hlen; cases hlen
    | d :: rest =>
      rw [hf] at hlen hes
      have hq := List.nodup_cons.mp hqs
      have hd := List.nodup_cons.mp hes
      let u : State := (({ s with freeEntries := rest }).setEntry d (newEntry f urgent q)).setQueue q
        ((s.queue q).pushTail (classOf urgent) d)
      have hu : createEntry f urgent q s = u := by
        rw [createEntry_cons f urgent q s d rest hf]
        rfl
      have uq (r : QueueId) : u.queue r =
          if r = q then (s.queue q).pushTail (classOf urgent) d else s.queue r := Table.get_set _ _ _ _
      have ue (e : EntryId) : u.entry e = if e = d then newEntry f urgent q else s.entry e :=
        Table.get_set _ _ _ _
      obtain ⟨h1, h2, h3, h4, h5⟩ := ih u (by simpa [u] using hlen) hq.2 hd.2
      have hfu : u.freeEntries = rest := rfl
      rw [hfu] at h1 h3 h4 h5
      simp only [List.foldl_cons, hu]
      refine ⟨?_, ?_, ?_, ?_, ?_⟩
      · intro r e he
        rw [List.zip_cons_cons, List.mem_cons] at he
        rcases he with he | he
        · obtain ⟨rfl, rfl⟩ := Prod.mk.inj he
          exact ⟨by rw [h2 _ hq.1, uq, if_pos rfl],
            by rw [h3 _ fun c => hd.1 (List.mem_of_mem_take c), ue, if_pos rfl]⟩
        · have hr := (List.of_mem_zip he).1
          obtain ⟨k1, k2⟩ := h1 r e he
          exact ⟨by rw [k1, uq, if_neg fun c : r = q => hq.1 (c ▸ hr)], k2⟩
      · intro r hr
        simp only [List.mem_cons, not_or] at hr
        rw [h2 r hr.2, uq, if_neg hr.1]
      · intro e he
        simp only [List.length_cons, List.take_succ_cons, List.mem_cons, not_or] at he
        rw [h3 e he.2, ue, if_neg he.1]
      · rw [h4]
        rfl
      · generalize List.foldl (fun s q => createEntry f urgent q s) u qs = t at h5 ⊢
        have e := congrArg
          (fun x : State =>
            { x with queues := s.queues, entries := s.entries, freeEntries := d :: rest }) h5
        exact e.trans (by cases s; cases hf; rfl)

/-! ## Claims -/

/-- The claim of a front entry: the queue without it, the entry with claimant and deadline, the agent with
the claim and its delivery record, and the deadline list with the entry if it has a deadline (R65, R81). -/
theorem claimEntry_eq (a : AgentId) (q : QueueId) (e : EntryId) (s : State) :
    claimEntry a q e s =
      let x := s.entry e
      let f := s.frame x.frame
      let y : Entry :=
        { x with place := .claimed, claimant := some a, deadline := deadlineAt s (s.queue q).timeout }
      let t := { s with
        queues := s.queues.set q (s.queue q).popFront
        entries := s.entries.set e y }
      { t with
        deadlines :=
          if y.deadline.isSome = true then insertDeadline t e s.deadlines else s.deadlines
        agents :=
          s.agents.set a
            { s.agent a with
              claims := (s.agent a).claims ++ [e]
              delivery :=
                some
                  { handle := formHandle x.frame f.generation, source := f.source, tag := f.tag,
                    length := f.length, urgent := f.urgent, reply := f.reply, home := x.home,
                    first := x.first, redeliveries := x.redeliveries } } } := by
  have ht : ((s.queue q).popFront).timeout = (s.queue q).timeout := by
    unfold Queue.popFront
    split <;> rfl
  simp only [State.queue] at ht
  by_cases hz : (s.queues.get q).timeout = 0 <;>
    simp only [claimEntry, joinDeadlines, deadlineAt, State.setQueue, State.setEntry, State.setAgent,
      State.queue, State.entry, State.agent, State.frame, handleOf, Table.get_set_self, ht, hz,
      if_true, if_false, Option.isSome_none, Option.isSome_some, Bool.false_eq_true]

/-- The place of a deadline: behind the expiries handed over and every entry that falls due no later,
before the first that falls due later (R82). -/
theorem insertDeadline_spec (s : State) (e : EntryId) (l : List EntryId) :
    ∃ x y, l = x ++ y ∧ insertDeadline s e l = x ++ e :: y ∧
      (∀ d ∈ x, d ∈ s.handedOver ∨ deadlineDistance s d ≤ deadlineDistance s e) ∧
      ∀ d ∈ y.head?, d ∉ s.handedOver ∧ deadlineDistance s e < deadlineDistance s d := by
  induction l with
  | nil => exact ⟨[], [], rfl, rfl, by simp, by simp⟩
  | cons c rest ih =>
    unfold insertDeadline
    split
    · rename_i h
      obtain ⟨x, y, h1, h2, h3, h4⟩ := ih
      exact ⟨c :: x, y, by rw [h1]; rfl, by rw [h2]; rfl,
        fun d hd => (List.mem_cons.mp hd).elim (fun k => k ▸ h) (h3 d), h4⟩
    · rename_i h
      refine ⟨[], c :: rest, rfl, rfl, by simp, fun d hd => ?_⟩
      rw [List.head?_cons, Option.mem_some_iff] at hd
      subst hd
      simpa [not_or] using h

/-! ## The redelivery path: the case that each home queue and count comes to (R86, R88) -/

theorem redeliver_of_flushing {s : State} {e : EntryId}
    (h : (s.queue (s.entry e).home).state = .flushing) (r : ReturnReason) :
    redeliver e r s = dropIntoFlush e s := by
  simp [redeliver, h]

theorem redeliver_of_closed {s : State} {e : EntryId}
    (h : (s.queue (s.entry e).home).state = .closed) (r : ReturnReason) :
    redeliver e r s = dropWithNotice e s := by
  simp [redeliver, h]

theorem redeliver_retired {s : State} {e : EntryId} (h : TakesReturns (s.queue (s.entry e).home)) :
    redeliver e .retired s = returnEntry e (s.entry e).redeliveries s := by
  rcases h with h | h | h <;> simp [redeliver, h]

theorem redeliver_below_limit {s : State} {e : EntryId} {r : ReturnReason} (hr : r ≠ .retired)
    (h : TakesReturns (s.queue (s.entry e).home))
    (hl : (s.entry e).redeliveries < (s.queue (s.entry e).home).limit) :
    redeliver e r s = returnEntry e ((s.entry e).redeliveries + 1) s := by
  cases r <;> first | exact absurd rfl hr | rcases h with h | h | h <;> simp [redeliver, returnCount, h, hl]

theorem redeliver_at_limit {s : State} {e : EntryId} {r : ReturnReason} (hr : r ≠ .retired)
    (h : TakesReturns (s.queue (s.entry e).home))
    (hl : (s.queue (s.entry e).home).limit ≤ (s.entry e).redeliveries) :
    redeliver e r s = deadLetterPath e s := by
  have hn : ¬(s.entry e).redeliveries < (s.queue (s.entry e).home).limit := by omega
  cases r <;> first | exact absurd rfl hr | rcases h with h | h | h <;> simp [redeliver, returnCount, h, hn]

theorem deadLetterPath_moves {s : State} {e : EntryId} {d : QueueId} (h : MayMoveTo s e d) :
    deadLetterPath e s = moveEntry e d s := by
  simp [deadLetterPath, (moveTarget_eq_some s e d).mpr h]

theorem deadLetterPath_drops {s : State} {e : EntryId} (h : ∀ d, ¬MayMoveTo s e d) :
    deadLetterPath e s = dropWithNotice e s := by
  simp [deadLetterPath, (moveTarget_eq_none s e).mpr h]

/-! ## Drain completion -/

/-- Drain completion leaves what its test says (R99, R100). -/
theorem drainTested (q : QueueId) (s : State) : DrainTested s (drainCompletion q s) q := by
  rw [drainCompletion_eq, DrainTested]
  split
  · generalize (s.queue q).requester = r
    rcases r with _ | ⟨b⟩ | _
    · exact ⟨fun r => Table.get_set _ _ _ _, rfl⟩
    · simp only [report, offerNotice_eq]
      exact ⟨fun r => Table.get_set _ _ _ _, fun c => Table.get_set _ _ _ _, rfl⟩
    · simp only [report, offerEvent_eq]
      refine ⟨fun r => Table.get_set _ _ _ _, ?_, rfl⟩
      by_cases h : s.events.length < 16 <;> simp [EventOffered, h, State.setQueue]
  · rfl

/-! ## Held accesses -/

/-- Taking a held command is running it (R118). -/
theorem takeCommand_eq_exec {c : Instr} (h : (accessPort c).isSome = true) (s : State) :
    takeCommand c s = exec c s := by
  cases c <;> first | rfl | cases h

end Sys2Proof.Machine
end

