-- ==== Sys2Proof/Tests/Slice0.lean ====
section
/-!
SUPPORT. Tests: decode and well-formedness, the spec's worked examples in small, and for each statement of
Certificates/Slice0/Obligations.lean a state and operands that meet its hypotheses.
-/

namespace Sys2Proof.Tests

open Sys2Proof.Machine

-- Each of these proofs waits on one kernel evaluation: taken one at a time they need one thread.
set_option Elab.async false

/-! ## A small running part -/

/-- Agent 1 holds and binds frame 1, agent 2 claims and binds frame 2 of queue 14 and is about to complete
it, frame 3 waits in queue 14, frame 4 is being scrubbed, frame 0 is free. Queue 30 is the dead-letter queue;
group 2 is queues 14 and 30. -/
def small : State :=
  { State.reset with
    controller := .running
    pools :=
      ((Table.fill Pool.reset).set 0
          { sizeCode := 0, count := 3, scrub := false, lowWater := 1, armed := true }).set 1
        { sizeCode := 2, count := 2, scrub := true, lowWater := 0, armed := true }
    frames :=
      (((((Table.fill (Frame.absent 0)).set 0 (Frame.absent 1)).set 1
              { Frame.absent 1 with
                state := .held, refs := 1, holder := some 1, source := 1, reply := some 14 }).set 2
            { Frame.absent 1 with state := .posted, refs := 1, source := 3, length := 8 }).set 3
          { Frame.absent 1 with pool := 1, state := .posted, refs := 1, source := 1, length := 9 }).set 4
        { Frame.absent 1 with pool := 1, state := .scrub }
    built := 5
    activeTotal := 5
    freeLists := (Table.fill []).set 0 [0]
    scrubList := [4]
    mem := [(64, 0x11), (65, 0x22), (129, 0x33), (448, 0x44)]
    entries :=
      ((Table.fill Entry.reset).set 0
          { place := .claimed, frame := 2, home := 14, first := 14, cls := .normal, redeliveries := 0,
            claimant := some 2, deadline := some 4 }).set 1
        { place := .queued, frame := 3, home := 14, first := 14, cls := .normal, redeliveries := 0,
          claimant := none, deadline := none }
    freeEntries := (List.finRange 2048).drop 2
    queues :=
      ((Table.fill Queue.reset).set 14
          { Queue.reset with
            state := .open, consumer := 2, permission := 0xFF, depth := 5, timeout := 3, limit := 1,
            normal := [1] }).set 30
        { Queue.reset with state := .open, permission := 0xFF, depth := 6 }
    groups := (Table.fill 0).set 2 0x40004000
    deadLetter := some 30
    agents :=
      ((Table.fill { Agent.reset with state := .online, enable := true, quota := 8, claimLimit := 4 }).set 1
          { Agent.reset with
            state := .online, enable := true, quota := 8, claimLimit := 4, held := [1],
            binding := some 0x80010001 }).set 2
        { Agent.reset with
          state := .online, enable := true, quota := 8, claimLimit := 4, claims := [0],
          binding := some 0x80010002 }
    deadlines := [0]
    pending := [.complete 2 0x80010002] }

/-- What a command leaves, if it runs to a next state. -/
def leaves (c : Instr) (s : State) (p : State → Bool) : Bool :=
  match exec c s with
  | .next t => p t
  | .fault _ | .refused _ => false

/-! ## The small part is sound -/

theorem small_free : small.freeEntries = (List.finRange 2048).drop 2 := by simp only [small]

theorem small_frame (f : FrameIdx) : small.frame f =
    if f = 4 then { Frame.absent 1 with pool := 1, state := .scrub }
    else if f = 3 then
      { Frame.absent 1 with pool := 1, state := .posted, refs := 1, source := 1, length := 9 }
    else if f = 2 then { Frame.absent 1 with state := .posted, refs := 1, source := 3, length := 8 }
    else if f = 1 then
      { Frame.absent 1 with
        state := .held, refs := 1, holder := some 1, source := 1, reply := some 14 }
    else if f = 0 then Frame.absent 1
    else Frame.absent 0 := by
  simp only [small, State.frame, Table.get_set, Table.get_fill]

theorem small_entry (e : EntryId) : small.entry e =
    if e = 1 then
      { place := .queued, frame := 3, home := 14, first := 14, cls := .normal, redeliveries := 0,
        claimant := none, deadline := none }
    else if e = 0 then
      { place := .claimed, frame := 2, home := 14, first := 14, cls := .normal, redeliveries := 0,
        claimant := some 2, deadline := some 4 }
    else Entry.reset := by
  simp only [small, State.entry, Table.get_set, Table.get_fill]

theorem small_queue (q : QueueId) :
    (small.queue q).urgent = [] ∧ (small.queue q).normal = if q = 14 then [1] else [] := by
  revert q
  decide +kernel

theorem small_agent (a : AgentId) :
    (small.agent a).claims = (if a = 2 then [0] else []) ∧
      (small.agent a).held = if a = 1 then [1] else [] := by
  revert a
  decide +kernel

theorem small_freeList (p : PoolId) : small.freeList p = if p = 0 then [0] else [] := by
  revert p
  decide +kernel

theorem frame_cases (f : FrameIdx) :
    f = 0 ∨ f = 1 ∨ f = 2 ∨ f = 3 ∨ f = 4 ∨ ¬f.val < 5 ∧ small.frame f = Frame.absent 0 := by
  by_cases h : f.val < 5
  · simp only [Fin.ext_iff]
    simp
    omega
  · have n (k : FrameIdx) (hk : k.val < 5) : f ≠ k := fun e => h (e ▸ hk)
    rw [small_frame, if_neg (n 4 (by decide)), if_neg (n 3 (by decide)), if_neg (n 2 (by decide)),
      if_neg (n 1 (by decide)), if_neg (n 0 (by decide))]
    simp [h]

theorem small_memory : MemoryLaw small := by decide +kernel

theorem small_controller : ControllerLaw small :=
  ⟨fun h => absurd rfl h, fun h => (by cases h), by decide +kernel⟩

theorem small_held : HeldLaw small := fun p => by
  cases p <;> exact ⟨fun _ => rfl, fun c hc => by cases hc⟩

theorem small_bindings : BindingLaw small := fun a h e => by
  have k : ∀ a, (small.agent a).binding =
      if a = 1 then some 0x80010001#32 else if a = 2 then some 0x80010002#32 else none := by
    decide +kernel
  rw [k] at e
  split at e
  · rename_i ha
    rw [← Option.some.inj e, ha]
    decide +kernel
  · split at e
    · rename_i ha
      rw [← Option.some.inj e, ha]
      exact ⟨by decide +kernel, .inr ⟨0, by decide +kernel, by decide +kernel⟩⟩
    · cases e

theorem small_agents : AgentLaw small := fun a => by
  have h : ∀ a, (1 ≤ (small.agent a).quota ∧ (small.agent a).quota ≤ 1024) ∧
      (1 ≤ (small.agent a).claimLimit ∧ (small.agent a).claimLimit ≤ 64) ∧
      (small.agent a).held.length + (small.agent a).claims.length ≤ (small.agent a).quota ∧
      (small.agent a).claims.length ≤ (small.agent a).claimLimit ∧
      (small.agent a).state = .online ∧ (small.agent a).cause = none ∧
      (small.agent a).notices = [] := by decide +kernel
  obtain ⟨h1, h2, h3, h4, h5, h6, h7⟩ := h a
  exact ⟨h1, h2, h3, h4, by simp [h5], by simp [h5], by simp [h5, h6], by simp [h7]⟩

theorem small_queues : QueueLaw small := fun q => by
  have h : ∀ q, (1 ≤ (small.queue q).depth ∧ (small.queue q).depth ≤ 1024) ∧
      (1 ≤ (small.queue q).threshold ∧ (small.queue q).threshold ≤ (small.queue q).depth) ∧
      (small.queue q).limit ≤ 7 ∧ (small.queue q).discards ≤ 65535 ∧
      ((small.queue q).requester.isSome = true ↔
        (small.queue q).state = .draining ∨ (small.queue q).state = .flushing) ∧
      ((small.queue q).state = .closed ∨ (small.queue q).state = .disabled →
        (small.queue q).urgent = [] ∧ (small.queue q).normal = []) ∧
      ((small.queue q).state ≠ .flushing → (small.queue q).flushCount = 0) := by decide +kernel
  obtain ⟨h1, h2, h3, h4, h5, h6, h7⟩ := h q
  exact ⟨h1, h2, h3, h4, h5, h6, h7⟩

theorem small_listed (e : EntryId) (h : Listed small e) : e = 0 ∨ e = 1 := by
  rcases h with ⟨q, h | h⟩ | ⟨a, h⟩ | h | h
  · rw [(small_queue q).1] at h
    cases h
  · rw [(small_queue q).2] at h
    split at h <;> simp_all
  · rw [(small_agent a).1] at h
    split at h <;> simp_all
  · simp only [small, List.mem_singleton] at h
    exact .inl h
  · simp only [small, State.reset, List.not_mem_nil] at h

theorem small_frameTable : FrameTableLaw small where
  fits := fun _ => by decide +kernel
  progress := by decide +kernel
  empty := by decide +kernel
  complete := by decide +kernel
  pools_match := fun f hf => by
    rcases frame_cases f with rfl | rfl | rfl | rfl | rfl | h
    all_goals first | decide +kernel | exact absurd hf h.1
  in_table := fun f hf => by
    rcases frame_cases f with rfl | rfl | rfl | rfl | rfl | h
    all_goals first | decide +kernel | exact absurd (by rw [h.2]; rfl) hf
  free_in_table := fun p f hf => by
    rw [small_freeList] at hf
    split at hf
    · rw [List.mem_singleton.mp hf]
      decide +kernel
    · cases hf
  scrub_in_table := by decide +kernel
  held_in_table := fun a f hf => by
    rw [(small_agent a).2] at hf
    split at hf
    · rw [List.mem_singleton.mp hf]
      decide +kernel
    · cases hf
  entries_in_table := fun e he => by
    rcases small_listed e he with rfl | rfl <;> decide +kernel

theorem small_entryLists : entryLists small = (List.finRange 2048).drop 2 ++ [1, 0] := by
  decide +kernel

theorem small_entries : EntryLaw small where
  once := by
    have h : (List.finRange 2048).take 2 = [0, 1] := by decide +kernel
    rw [small_entryLists]
    conv_rhs => rw [← List.take_append_drop 2 (List.finRange 2048), h]
    exact List.perm_append_comm.trans (List.Perm.append_right _ (List.Perm.swap 0 1 []))
  free_place := fun e he => by
    rw [small_free] at he
    have h2 : 2 ≤ e.val := by
      obtain ⟨i, hi, rfl⟩ := List.mem_iff_getElem.mp he
      rw [List.getElem_drop, List.getElem_finRange]
      simp
    have h1 : e ≠ 1 := by
      rintro rfl
      revert h2
      decide
    have h0 : e ≠ 0 := by
      rintro rfl
      revert h2
      decide
    rw [small_entry, if_neg h1, if_neg h0]
    exact ⟨rfl, rfl⟩
  urgent_place := fun q e he => by
    rw [(small_queue q).1] at he
    cases he
  normal_place := fun q e he => by
    rw [(small_queue q).2] at he
    split at he
    · rename_i h
      rw [List.mem_singleton.mp he, h]
      decide +kernel
    · cases he
  claimed_place := fun a e he => by
    rw [(small_agent a).1] at he
    split at he
    · rename_i h
      rw [List.mem_singleton.mp he, h]
      decide +kernel
    · cases he

theorem small_live : liveEntries small = [1, 0] := by decide +kernel

theorem small_depths : DepthLaw small where
  within := by decide +kernel
  disabled_unclaimed := by decide +kernel
  draining_used := by decide +kernel
  redeliveries_within := by
    rw [small_live]
    decide +kernel

theorem small_references : ReferenceLaw small where
  counted := fun f => by
    rw [small_live]
    rcases frame_cases f with rfl | rfl | rfl | rfl | rfl | ⟨h, hf⟩
    iterate 5 decide +kernel
    have n (k : FrameIdx) (hk : k.val < 5) : (k == f) = false := by
      simpa using fun e : k = f => h (e ▸ hk)
    rw [hf, List.countP_cons, List.countP_singleton, n _ (by decide +kernel), n _ (by decide +kernel)]
    rfl
  held_alone := fun f hf => by
    rcases frame_cases f with rfl | rfl | rfl | rfl | rfl | h
    all_goals first | (revert hf; decide +kernel) | (rw [h.2] at hf; cases hf)
  zero := fun f => by
    rcases frame_cases f with rfl | rfl | rfl | rfl | rfl | h
    all_goals first | decide +kernel | (rw [h.2]; decide)
  holder_present := fun f => by
    rcases frame_cases f with rfl | rfl | rfl | rfl | rfl | h
    all_goals first | decide +kernel | (rw [h.2]; decide)
  held_list := fun a f => by
    rw [(small_agent a).2]
    rcases frame_cases f with rfl | rfl | rfl | rfl | rfl | h
    iterate 5 revert a; decide +kernel
    rw [h.2]
    split
    · have := h.1
      simp only [List.mem_singleton, Fin.ext_iff, Frame.absent]
      simp
      omega
    · simp [Frame.absent]
  held_once := by decide +kernel
  free_list := fun p f => by
    rw [small_freeList]
    rcases frame_cases f with rfl | rfl | rfl | rfl | rfl | h
    iterate 5 revert p; decide +kernel
    have e : small.built = 5 := rfl
    rw [e]
    have := h.1
    split
    · simp only [List.mem_singleton, Fin.ext_iff]
      simp
      omega
    · simp [this]
  free_once := by decide +kernel
  scrub_list := fun f => by
    rcases frame_cases f with rfl | rfl | rfl | rfl | rfl | h
    iterate 5 decide +kernel
    have := h.1
    rw [h.2]
    simp only [small, List.mem_singleton, Fin.ext_iff, Frame.absent]
    simp
    omega
  scrub_once := by decide +kernel
  one_a_queue := fun x hx y hy _ hf => by
    have n : (small.entry 1).frame ≠ (small.entry 0).frame := by decide +kernel
    rw [small_live] at hx hy
    simp only [List.mem_cons, List.not_mem_nil, or_false] at hx hy
    rcases hx with rfl | rfl <;> rcases hy with rfl | rfl <;>
      first | rfl | exact absurd hf n | exact absurd hf.symm n

theorem small_deadlines : DeadlineLaw small where
  once := by decide +kernel
  carried := fun e => by
    have h : small.deadlines = [0] := by simp only [small]
    rw [h, small_entry]
    by_cases h1 : e = 1
    · subst h1
      decide
    · by_cases h0 : e = 0
      · subst h0
        decide
      · simp [h1, h0, Entry.reset]
  claimed := fun e he => by
    have h : small.deadlines = [0] := by simp only [small]
    rw [h] at he
    rw [List.mem_singleton.mp he]
    decide +kernel
  front := by decide +kernel
  due := fun e he => by
    simp only [small, State.reset, List.not_mem_nil] at he
  ordered := by decide +kernel

/-! ## Tests: one step each, the expected values worked out from the rule named -/

/-- The same part with one agent context replaced. -/
def withAgent (a : AgentId) (change : Agent → Agent) : State := small.setAgent a (change (small.agent a))

/-- The same part with one queue record replaced. -/
def withQueue (q : QueueId) (change : Queue → Queue) : State := small.setQueue q (change (small.queue q))

/-- R12, R18: the front frame, its handle, and POOL_LOW at a free count of 0. -/
theorem test_alloc : leaves (.alloc 1 0) small (fun t =>
    t.data .a == 0x80010000#32 && (t.agent 1).held == [1, 0] && t.events == [.poolLow 0 0]) = true := by
  decide +kernel

/-- R12, R13: the frames of pool 1 are posted or scrubbing. -/
theorem test_alloc_empty : leaves (.alloc 1 1) small (fun t =>
    t.data .a == 0 && (t.agent 1).last == { code := .empty, action := .alloc, operand := 1 }) = true := by
  decide +kernel

/-- R65, R81: the deadline is 0 + 3 + 1. -/
theorem test_receive : leaves (.receive 2 14) small (fun t =>
    t.data .a == 0x80010003#32 && (t.agent 2).claims == [0, 1] && (t.entry 1).deadline == some 4 &&
      t.deadlines == [0, 1]) = true := by decide +kernel

/-- R69: the search starts after the pointer, 31, and finds queue 14. -/
theorem test_receiveAny : leaves (.receiveAny 2) small (fun t =>
    (t.agent 2).rotation == 14 && t.data .a == 0x80010003#32) = true := by decide +kernel

/-- R69, the example of chapter 4, reads 1 and 2: an urgent entry in queue 20 goes before queue 3. -/
theorem test_receiveAny_urgent :
    let s :=
      (small.setQueue 3 { Queue.reset with state := .open, consumer := 4, normal := [5] }).setQueue 20
        { Queue.reset with state := .open, consumer := 4, urgent := [6], normal := [7] }
    leaves (.receiveAny 4) s (fun t => (t.agent 4).rotation == 20 && (t.agent 4).claims == [6] &&
      leaves (.receiveAny 4) t fun u => (u.agent 4).rotation == 3 && (u.agent 4).claims == [6, 5]) =
      true := by decide +kernel

/-- R53, R54: the frame joins the tail of queue 14 with entry 2. -/
theorem test_post :
    leaves (.post 1 0x80010001) (withAgent 1 fun x =>
        { x with staging := { Staging.reset with number := 14, tag := 0x41, length := 64 } }) (fun t =>
      (t.queue 14).normal == [1, 2] && (t.frame 1).state == .posted && (t.frame 1).tag == 0x41 &&
        (t.agent 1).held == []) = true := by decide +kernel

/-- R48: a length of 65 is above the frame size, 64. -/
theorem test_post_length :
    leaves (.post 1 0x80010001) (withAgent 1 fun x =>
        { x with staging := { Staging.reset with number := 14, length := 65 } }) (fun t =>
      (t.agent 1).last == { code := .length, action := .post, operand := 0x80010001 } &&
        (t.frame 1).state == .held) = true := by decide +kernel

/-- R57: group 2 is queues 14 and 30. -/
theorem test_postToGroup :
    leaves (.postToGroup 1 0x80010001) (withAgent 1 fun x =>
        { x with staging := { Staging.reset with kind := .group, number := 2, urgent := true } }) (fun t =>
      (t.queue 14).urgent == [2] && (t.queue 30).urgent == [3] && (t.frame 1).refs == 2) = true := by
  decide +kernel

/-- R57, the example of chapter 3: the second member is full, so the first receives nothing. -/
theorem test_postToGroup_full :
    leaves (.postToGroup 1 0x80010001) ((withAgent 1 fun x =>
        { x with staging := { Staging.reset with kind := .group, number := 2 } }).setQueue 30
          { small.queue 30 with depth := 2, normal := [7, 8] }) (fun t =>
      (t.agent 1).last == { code := .queueFull, action := .post, operand := 30 } &&
        (t.queue 14).normal == [1]) = true := by decide +kernel

/-- R59, R60: frame 1 replies to queue 14. -/
theorem test_reply : leaves (.reply 1 0x80010001) small (fun t =>
    (t.queue 14).normal == [1, 2] && (t.frame 1).reply == none) = true := by decide +kernel

/-- R14, R15: the frame joins the tail of its free list at generation 2. -/
theorem test_free : leaves (.free 1 0x80010001) small (fun t =>
    t.freeList 0 == [0, 1] && (t.frame 1).generation == 2) = true := by decide +kernel

/-- R9: generation 2 is not the frame's. -/
theorem test_free_stale : leaves (.free 1 0x80020001) small (fun t =>
    (t.agent 1).last == { code := .stale, action := .free, operand := 0x80020001 }) = true := by
  decide +kernel

/-- R71: the last reference goes, and the frame with it; the aperture is unbound. -/
theorem test_complete : leaves (.complete 2 0x80010002) small (fun t =>
    t.freeList 0 == [0, 2] && (t.agent 2).claims == [] && (t.agent 2).binding == none &&
      t.deadlines == []) = true := by decide +kernel

/-- R72: the binding stays. -/
theorem test_take : leaves (.take 2 0x80010002) small (fun t =>
    (t.agent 2).held == [2] && (t.frame 2).state == .held &&
      (t.agent 2).binding == some 0x80010002) = true := by decide +kernel

/-- R72: a second reference. -/
theorem test_take_shared :
    leaves (.take 2 0x80010002) (small.setFrame 2 { small.frame 2 with refs := 2 }) (fun t =>
      (t.agent 2).last == { code := .shared, action := .take, operand := 0x80010002 }) = true := by
  decide +kernel

/-- R86, R87: below the limit the entry returns to the front with count 1. -/
theorem test_release : leaves (.release 2 0x80010002) small (fun t =>
    (t.queue 14).normal == [0, 1] && (t.entry 0).redeliveries == 1) = true := by decide +kernel

/-- R88, R89: at the limit it goes to the dead-letter queue, and the source agent is told. -/
theorem test_release_at_limit :
    leaves (.release 2 0x80010002) (withQueue 14 fun x => { x with limit := 0 }) (fun t =>
      (t.queue 30).normal == [0] && (t.entry 0).home == 30 &&
        (t.agent 3).notices ==
          [{ kind := .undelivered, queue := 14, count := 0, outcome := .deadLettered,
             handle := some 0x80010002 }]) = true := by decide +kernel

theorem test_bindWrite : leaves (.bindWrite 2 0) small (fun t => (t.agent 2).binding == none) &&
    leaves (.bindWrite 1 0x80010002) small (fun t => (t.agent 1).last.code == .notOwner) = true := by
  decide +kernel

theorem test_bindRead : leaves (.bindRead 2) small (fun t =>
    t.data .a == 0x80010002#32 && (t.agent 2).last.operand == 0x80010002#32) = true := by
  decide +kernel

theorem test_attach :
    leaves (.attach 5) (withAgent 5 fun _ => { Agent.reset with enable := true, quota := 3 }) (fun t =>
      (t.agent 5).state == .online && (t.agent 5).quota == 3) = true := by decide +kernel

theorem test_attach_online : leaves (.attach 5) small (fun t =>
    (t.agent 5).last == { code := .badState, action := .attach, operand := 0 }) = true := by
  decide +kernel

/-- R119: the consumer's OPEN queue is paused. -/
theorem test_detach : leaves (.detach 2) small (fun t =>
    (t.agent 2).state == .retiring && (t.queue 14).state == .paused) = true := by decide +kernel

theorem test_retire : leaves (.retire 2) small (fun t =>
    (t.agent 2).cause == some .retire &&
      t.controlResult == { code := .ok, subject := .command 9, operand := 2 }) = true := by
  decide +kernel

theorem test_open : leaves (.openQueue .control 3) small (fun t =>
    (t.queue 3).state == .open &&
      t.controlResult == { code := .ok, subject := .command 3, operand := 3 }) = true := by
  decide +kernel

theorem test_open_consumer : leaves (.openQueue (.agent 2) 14) small (fun t =>
    (t.agent 2).last == { code := .badState, action := .open, operand := 14 }) = true := by
  decide +kernel

theorem test_pause : leaves (.pause (.agent 2) 14) small (fun t =>
    (t.queue 14).state == .paused) = true := by decide +kernel

theorem test_resume : leaves (.resume (.agent 2) 14) (withQueue 14 fun x => { x with state := .paused })
    (fun t => (t.queue 14).state == .open) = true := by decide +kernel

theorem test_drain : leaves (.drain (.agent 2) 14) small (fun t =>
    (t.queue 14).state == .draining && (t.queue 14).requester == some (.agent 2)) = true := by
  decide +kernel

/-- R97: a queue without entries closes at once. -/
theorem test_drain_empty : leaves (.drain .control 30) small (fun t =>
    (t.queue 30).state == .closed && t.events == [.queueClosed 30]) = true := by decide +kernel

theorem test_flush : leaves (.flush .control 14) small (fun t =>
    (t.queue 14).state == .flushing && (t.queue 14).requester == some .control) = true := by
  decide +kernel

theorem test_disable : leaves (.disable 30) (withQueue 30 fun x => { x with state := .closed }) (fun t =>
    (t.queue 30).state == .disabled) = true := by decide +kernel

/-- R39: a claim is outstanding. -/
theorem test_disable_claimed :
    leaves (.disable 14) (withQueue 14 fun x => { x with state := .closed, normal := [] }) (fun t =>
      t.controlResult == { code := .wrongState, subject := .command 8, operand := 14 }) = true := by
  decide +kernel

theorem test_clearDiscard : leaves (.clearDiscard 14) (withQueue 14 fun x => { x with discards := 9 })
    (fun t => (t.queue 14).discards == 0) = true := by decide +kernel

theorem test_unknownAgentCommand : leaves (.unknownAgentCommand 2 8) small (fun t =>
    (t.agent 2).last == { code := .badCommand, action := .command, operand := 0 }) = true := by
  decide +kernel

/-- R167: kind 1, queue 20 from bit 8, count 2 from bit 16. -/
theorem test_notice :
    leaves (.notice 3) (withAgent 3 fun x =>
        { x with
          notices :=
            [{ kind := .claimExpired, queue := 20, count := 2, outcome := .none,
               handle := some 0x80010003 }] }) (fun t =>
      t.data .a == 0x00021401#32 && (t.agent 3).noticeDetail == 0x80010003#32) = true := by
  decide +kernel

theorem test_stagingDestination : leaves (.stagingDestination 3 0x00000102) small (fun t =>
    (t.agent 3).staging.kind == .group && (t.agent 3).staging.number == 2) = true := by decide +kernel

theorem test_stagingAttributes : leaves (.stagingAttributes 3 0x94010041) small (fun t =>
    (t.agent 3).staging ==
      { Staging.reset with tag := 0x41, urgent := true, reply := some 20 }) = true := by decide +kernel

theorem test_stagingLength : leaves (.stagingLength 3 2048) small (fun t =>
    (t.agent 3).staging.length == 2048 &&
      leaves (.stagingLength 3 2049) t fun u => (u.agent 3).staging.length == 2048) = true := by
  decide +kernel

theorem test_interruptEnable : leaves (.interruptEnable 2 2) small (fun t =>
    (t.agent 2).readyEnable && !(t.agent 2).noticeEnable && agentLine t 2) = true := by decide +kernel

/-- R130: byte 1 of frame 2 is at address 129, in lane 1. -/
theorem test_apertureRead : leaves (.apertureRead 2 0 0xF) small (fun t =>
    t.data .a == 0x00003300#32 && leaves (.apertureRead 2 0 1) t fun u => u.data .a == 0) = true := by
  decide +kernel

/-- R130, the example of chapter 8: 12345678h stores 78h, 56h, 34h, 12h; then lane 1 of the next word. -/
theorem test_apertureWrite :
    leaves (.apertureWrite 1 0 0xF 0x12345678) small (fun t =>
      t.mem.take 4 == [(64, 0x78), (65, 0x56), (66, 0x34), (67, 0x12)] &&
        leaves (.apertureWrite 1 1 2 0x0000AB00) t fun u =>
          u.mem.read 69 == 0xAB && u.mem.read 68 == 0) = true := by decide +kernel

/-- R129: a claimant has no write right. -/
theorem test_apertureWrite_claimant : leaves (.apertureWrite 2 0 0xF 1) small (fun t =>
    (t.agent 2).last == { code := .violation, action := .aperture, operand := 0x80010002 }) = true := by
  decide +kernel

/-- The pool definitions of the example of chapter 10; pool 3 as given. -/
def defined (count : Nat) : State :=
  { State.reset with
    pools :=
      ((((Table.fill Pool.reset).set 0 { Pool.reset with sizeCode := 1, count := 512, lowWater := 32 }).set 1
            { Pool.reset with sizeCode := 3, count := 64, scrub := true }).set 2
          { Pool.reset with sizeCode := 5, count := 16 }).set 3 { Pool.reset with count := count } }

/-- R155, that example: 131584 bytes are too many, 131072 are not. -/
theorem test_format : leaves .format (defined 8) (fun t =>
    t.controlResult == { code := .formatInvalid, subject := .command 1, operand := 4 }) &&
      leaves .format (defined 0) (fun t => t.controller == .formatting) = true := by decide +kernel

/-- R156: index 512 is the first frame of pool 1. -/
theorem test_formatBuildStep :
    leaves .formatBuildStep { defined 0 with controller := .formatting, built := 512 } (fun t =>
      (t.frame 512).pool == 1 && (t.frame 512).generation == 1 && t.freeList 1 == [512] &&
        t.built == 513) = true := by decide +kernel

theorem test_formatCompletion :
    leaves .formatCompletion { defined 0 with controller := .formatting, built := 592 } (fun t =>
      t.controller == .running && t.activeTotal == 592 && t.events == [.formatDone 592]) = true := by
  decide +kernel

theorem test_restart : leaves .restart small (fun t =>
    t.controller == .config && (t.agent 2).state == .offline && (t.queue 14).consumer == 2 &&
      (t.frame 2).generation == 1 && t.freeList 0 == []) = true := by decide +kernel

/-- R152: code 3 with operand 32. -/
theorem test_unknownControlCommand : leaves (.unknownControlCommand 0x00002003) small (fun t =>
    t.controlResult == { code := .badValue, subject := .command 3, operand := 32 }) = true := by
  decide +kernel

/-- R168: AGENT_RETIRED of agent 2, returned 2, dropped 1, freed 2, cause DETACH. -/
theorem test_supervisorEvent :
    leaves .supervisorEvent { small with events := [.agentRetired 2 2 1 2 .detach] } (fun t =>
      t.data .a == 0x00000202#32 && t.eventDetail == 0x10020102#32) = true := by decide +kernel

/-- R154, R168: and the control-result word of chapter 11's example. -/
theorem test_poolDefinition : leaves (.poolDefinition 3 0x00208405) State.reset (fun t =>
    t.pool 3 == { sizeCode := 5, count := 64, scrub := true, lowWater := 32, armed := true } &&
      controlResultWord t.controlResult == 0x03004C80#32) = true := by decide +kernel

theorem test_queueConfiguration : leaves (.queueConfiguration 3 .first 0x00050671) small (fun t =>
    (t.queue 3).consumer == 1 && (t.queue 3).limit == 7 && (t.queue 3).permission == 6 &&
      (t.queue 3).timeout == 5) = true := by decide +kernel

theorem test_agentConfiguration : leaves (.agentConfiguration 3 0x00040008) small (fun t =>
    !(t.agent 3).enable && (t.agent 3).quota == 8 && (t.agent 3).claimLimit == 4 &&
      t.controlResult.code == .ok) = true := by decide +kernel

theorem test_groupMemberSet : leaves (.groupMemberSet 5 0x00000012) small (fun t =>
    groupMembers t 5 == [1, 4]) = true := by decide +kernel

theorem test_deadLetterSelection : leaves (.deadLetterSelection 0x8000000E) small (fun t =>
    t.deadLetter == some 14) = true := by decide +kernel

theorem test_timebasePrescaler : leaves (.timebasePrescaler 65537) small (fun t =>
    t.prescaler == 1000 && t.controlResult.code == .badValue) = true := by decide +kernel

theorem test_supervisorInterruptEnable :
    leaves (.supervisorInterruptEnable 1) { small with events := [.queueClosed 3] } (fun t =>
      supervisorLine t) = true := by decide +kernel

theorem test_ignoredWrite : leaves (.ignoredWrite .a 0 0 5) small (fun t =>
    (t.agent 0).last == LastResult.reset) = true := by decide +kernel

theorem test_porstAssert : leaves .porstAssert small (fun t =>
    t.controller == .init && (t.agent 2).claims == [] && (t.frame 2).generation == 0) = true := by
  decide +kernel

theorem test_porstRelease : leaves .porstRelease { State.reset with controller := .init, porst := true }
    (fun t => !t.porst && t.controller == .init) = true := by decide +kernel

theorem test_initialisationEnd :
    leaves .initialisationEnd { State.reset with controller := .init, mem := [(9, 1)] } (fun t =>
      t.controller == .config && t.mem == []) = true := by decide +kernel

/-- R118: the agents of Port A retire, agent 5 does not. -/
theorem test_portResetAssert : leaves (.portResetAssert .a) small (fun t =>
    (t.agent 2).cause == some .portReset && (t.agent 5).state == .online && t.rstA) = true := by
  decide +kernel

theorem test_portResetRelease :
    leaves (.portResetRelease .b) { small with rstB := true, heldB := [.command (.alloc 5 0)] } (fun t =>
      t.data .b == 0x80010000#32 && t.heldB == [] && !t.rstB) = true := by decide +kernel

/-- R118, R163: a read of Last Operand, 0E4h of agent 5's page, waits behind a read of ALLOC 3, and then
returns the operand that ALLOC has left. -/
theorem test_portReset_plainRead :
    let s := { small with rstB := true, heldB := [.command (.alloc 5 3)] }
    let x : BusAccess := { port := .b, address := 0x0439, lanes := 0xF, written := none }
    (match s.access x with
      | .read t => t.heldB == [.command (.alloc 5 3), .read (.agent 5 .lastOperand)]
      | .command _ => false) = true ∧
      leaves (.portResetRelease .b)
        { s with heldB := [.command (.alloc 5 3), .read (.agent 5 .lastOperand)] } (fun t =>
          t.data .b == 3#32 && t.heldB == []) = true := by decide +kernel

/-- R84: the claim due at count 4 is handed over at that tick. -/
theorem test_tick : leaves .tick { small with timebase := 3 } (fun t =>
    t.timebase == 4 && t.handedOver == [0] && t.divider == 0) = true := by decide +kernel

/-- R85, R91: CLAIM_EXPIRED with count 1, and the entry back at the front. -/
theorem test_claimExpiry : leaves .claimExpiry { small with timebase := 4, handedOver := [0] } (fun t =>
    (t.queue 14).normal == [0, 1] &&
      (t.agent 2).notices ==
        [{ kind := .claimExpired, queue := 14, count := 1, outcome := .none,
           handle := some 0x80010002 }]) = true := by decide +kernel

/-- R17: frame 4 begins at byte 192 + 256. -/
theorem test_scrubCompletion : leaves .scrubCompletion small (fun t =>
    t.mem == [(64, 0x11), (65, 0x22), (129, 0x33)] && t.freeList 1 == [4] &&
      (t.frame 4).generation == 2) = true := by decide +kernel

theorem test_flushStep :
    leaves (.flushStep 14) (withQueue 14 fun x => { x with state := .flushing, requester := some .control })
      (fun t =>
        (t.queue 14).flushCount == 1 && t.scrubList == [4, 3] &&
          leaves (.flushStep 14) t fun u =>
            (u.queue 14).state == .closed && u.events == [.flushDone 14 1]) = true := by decide +kernel

/-- R120: the count stays 0. -/
theorem test_retireClaimStep :
    leaves (.retireClaimStep 2) (withAgent 2 fun x => { x with state := .retiring, cause := some .detach })
      (fun t =>
        (t.queue 14).normal == [0, 1] && (t.entry 0).redeliveries == 0 &&
          (t.agent 2).returned == 1) = true := by decide +kernel

theorem test_retireFreeStep :
    leaves (.retireFreeStep 1) (withAgent 1 fun x => { x with state := .retiring, cause := some .detach })
      (fun t =>
        t.freeList 0 == [0, 1] &&
          leaves (.retireFreeStep 1) t fun u =>
            (u.agent 1).state == .offline && u.events == [.agentRetired 1 0 0 1 .detach]) = true := by
  decide +kernel

/-! ## Well-formedness: one ill-formed term for each check, refused; and one that passes -/

theorem test_illFormed_agentCommand :
    WellFormed (.unknownAgentCommand 1 7) = false ∧ WellFormed (.unknownAgentCommand 1 8) = true := by
  decide +kernel

theorem test_illFormed_controlCommand :
    WellFormed (.unknownControlCommand 0x00001F03) = false ∧
      WellFormed (.unknownControlCommand 0x00002003) = true ∧
      WellFormed (.unknownControlCommand 0x00010001) = true := by decide +kernel

/-- Offset 0A0h of an agent page is POST; offset 0 is RECEIVE, which ignores writes. -/
theorem test_illFormed_ignoredWrite :
    WellFormed (.ignoredWrite .a 0 0x28 1) = false ∧ WellFormed (.ignoredWrite .a 0 0 1) = true := by
  decide +kernel

/-- An ill-formed term is refused, by the name of its reason. -/
theorem test_illFormed_refused :
    (match exec (.unknownAgentCommand 1 7) small with
    | .refused r => r == .illFormed
    | .next _ | .fault _ => false) = true := by decide +kernel

/-! ## The bus decode (R162, R164, R166) -/

/-- Page 2 of Port B is agent 6; page 8 of Port A is the control page, of Port B nothing. -/
theorem test_pages : place .b 2 0x28 = .agent 6 .post ∧ place .a 8 1 = .control .controlCommand ∧
    place .b 8 1 = .undecoded := by decide +kernel

/-- The ends of the ranges of the two page maps. -/
theorem test_offsets : agentPlace 0x1F = .receive 31 ∧ agentPlace 0x21 = .alloc 0 ∧
    agentPlace 0x24 = .alloc 3 ∧ agentPlace 0x200 = .aperture 0 ∧ agentPlace 0x3FF = .aperture 511 ∧
    controlPlace 0x40 = .queueConfiguration 0 .first ∧
    controlPlace 0x7F = .queueConfiguration 31 .second := by
  decide +kernel

/-- The command words: code in bits 7 to 0, operand above. -/
theorem test_commandWords : agentCommandOf 2 0x00000E06 = .drain (.agent 2) 14 ∧
    controlCommandOf 0x00000709 = some (.retire 7) ∧ controlCommandOf 0x00000809 = none ∧
    controlCommandOf 0x00000101 = none := by decide +kernel

/-- No row of the table gives bits, so no word spells a command. -/
theorem test_decodeTableWord : decodeTableWord 32 0x80010002 = none := rfl

/-! ## Witnesses: a state and operands that meet the hypotheses of each statement -/

theorem witness_EmptyQueueCountsOnePeriod :
    ({ State.reset with controller := .init }.pending = [] ∧
      { State.reset with controller := .init }.controller = .init) ∧
    (State.reset.pending = [] ∧ State.reset.controller ≠ .init ∧ State.reset.handedOver = [] ∧
      State.reset.divider + 1 < State.reset.tickLength) ∧
    { State.reset with divider := 998 }.divider + 1 < State.reset.tickLength ∧
    State.reset.tickLength ≤ { State.reset with divider := 999 }.divider + 1 := by decide +kernel

theorem witness_AllocTakesOldestFrame :
    Serves small 1 ∧ BelowQuota small 1 ∧ (small.pool 0).count ≠ 0 ∧ small.freeList 0 = [0] := by
  decide +kernel

theorem small_holds : Serves small 1 ∧ Holds small 1 0x80010001 := by decide +kernel

theorem witness_FreeGivesFrameBack : Serves small 1 ∧ Holds small 1 0x80010001 := small_holds

/-- At the quota and at the claim limit: the bounds of the first two checks. -/
def atBounds : State := withAgent 2 fun x => { x with quota := 1, claimLimit := 1 }

theorem witness_ReadActionsRefused :
    PortTakes atBounds .a ∧ (atBounds.agent 2).claims.length = (atBounds.agent 2).claimLimit ∧
      (atBounds.agent 2).held.length + (atBounds.agent 2).claims.length = (atBounds.agent 2).quota ∧
      prefixAnswer atBounds 2 = none ∧
      PortTakes small .a ∧ prefixAnswer small 1 = none ∧
      (small.agent 1).held.length + (small.agent 1).claims.length ≤ (small.agent 1).quota ∧
      (small.pool 2).count = 0 ∧ (small.queue 3).state = .disabled ∧
      ∀ q, (small.queue q).consumer = 1 →
        (small.queue q).urgent = [] ∧ (small.queue q).normal = [] := by decide +kernel

/-- The null handle fails every first check; frame 3's passes them, and agent 1 has no right over it. -/
theorem witness_HandleActionsRefused :
    PortTakes small .a ∧ prefixAnswer small 1 = none ∧ handleAnswer small 0 = some .badHandle ∧
      handleAnswer small 0x80010003 = none ∧ (small.frame 3).state ≠ .held ∧
      (small.agent 1).claims = [] ∧ PortTakes State.reset .a ∧
      prefixAnswer State.reset 1 = some .notRunning := by decide +kernel

/-- Agent 1 posts frame 1 to group 2, with the longest length its frame takes. -/
def posting : State :=
  withAgent 1 fun x => { x with staging := { Staging.reset with kind := .group, number := 2, length := 64 } }

theorem posting_destinations : destinations posting 1 = [14, 30] := by decide +kernel

theorem posting_takes (q : QueueId) (h : q ∈ destinations posting 1) : TakesPosts posting 1 q := by
  rw [posting_destinations] at h
  simp only [List.mem_cons, List.not_mem_nil, or_false] at h
  rcases h with rfl | rfl <;> decide +kernel

theorem witness_PostCreatesEntries :
    Serves posting 1 ∧ Holds posting 1 0x80010001 ∧
      (posting.agent 1).staging.length ≤ sizeOfFrame posting (handleIndex 0x80010001) ∧
      destinations posting 1 ≠ [] ∧ (∀ q ∈ destinations posting 1, TakesPosts posting 1 q) ∧
      (destinations posting 1).length ≤ posting.freeEntries.length ∧ posting.freeEntries.Nodup := by
  refine ⟨by decide +kernel, by decide +kernel, by decide +kernel, by decide +kernel, posting_takes,
    by decide +kernel, ?_⟩
  have h : posting.freeEntries = (List.finRange 2048).drop 2 := by
    simp only [posting, withAgent, State.setAgent_freeEntries, small_free]
  rw [h]
  exact (List.nodup_finRange 2048).sublist (List.drop_sublist 2 _)

theorem witness_ReplyPostsToReplyQueue :
    Serves small 1 ∧ Holds small 1 0x80010001 ∧
      (small.frame (handleIndex 0x80010001)).reply = some 14 ∧
      (small.agent 1).staging.length ≤ sizeOfFrame small (handleIndex 0x80010001) ∧
      TakesPosts small 1 14 ∧ small.freeEntries = 2 :: (List.finRange 2048).drop 3 := by
  refine ⟨by decide +kernel, by decide +kernel, by decide +kernel, by decide +kernel,
    by decide +kernel, ?_⟩
  decide +kernel

/-- A length one above the frame size, for both clauses; and a frame without a reply queue. -/
theorem witness_PostAndReplyRefused :
    let s := withAgent 1 fun x => { x with staging := { Staging.reset with length := 65 } }
    let u := small.setFrame 1 { small.frame 1 with reply := none }
    (PortTakes s .a ∧ (∀ q, queuedCount s q + claimCount s q ≤ (s.queue q).depth) ∧
      prefixAnswer s 1 = none ∧ handleAnswer s 0x80010001 = none ∧ (s.frame 1).state = .held ∧
      (s.frame 1).holder = some 1 ∧ sizeOfFrame s 1 < (s.agent 1).staging.length ∧
      (s.frame 1).reply = some 14) ∧
    PortTakes u .a ∧ (∀ q, queuedCount u q + claimCount u q ≤ (u.queue q).depth) ∧
      prefixAnswer u 1 = none ∧ handleAnswer u 0x80010001 = none ∧ (u.frame 1).state = .held ∧
      (u.frame 1).holder = some 1 ∧ (u.frame 1).reply = none := by decide +kernel

theorem witness_ReceiveClaimsFrontEntry :
    Serves small 2 ∧ (small.queue 14).consumer = 2 ∧ (small.queue 14).state = .open ∧
      BelowQuota small 2 ∧ (small.agent 2).claims.length < (small.agent 2).claimLimit ∧
      FrontEntry (small.queue 14) 1 { small.queue 14 with normal := [] } :=
  ⟨by decide +kernel, by decide +kernel, by decide +kernel, by decide +kernel, by decide +kernel,
    .inr ⟨[], by decide +kernel, by decide +kernel, rfl⟩⟩

/-- Queue 14 is the one candidate of agent 2, with a normal entry; with an urgent one in its place it is the
first case of the statement. -/
theorem witness_ReceiveAnyServesInRotation :
    Serves small 2 ∧ BelowQuota small 2 ∧ (small.agent 2).claims.length < (small.agent 2).claimLimit ∧
      (small.queue 14).consumer = 2 ∧ (small.queue 14).state = .open ∧ 0 < queuedCount small 14 ∧
      (∀ r, (small.queue r).urgent = []) ∧
      ∀ r, (small.queue r).consumer = 2 → 0 < queuedCount small r → r = 14 := by decide +kernel

theorem small_oldest : OldestClaim small 2 (handleIndex 0x80010002) 0 :=
  ⟨[], [], by decide +kernel, by decide +kernel, fun x hx => by cases hx⟩

theorem small_claim : Serves small 2 ∧ NamesFrame small 0x80010002 ∧
    (small.frame (handleIndex 0x80010002)).refs = 1 ∧ (small.entry 0).home = 14 := by decide +kernel

theorem witness_CompleteEndsOldestClaim :
    Serves small 2 ∧ NamesFrame small 0x80010002 ∧ OldestClaim small 2 (handleIndex 0x80010002) 0 :=
  ⟨small_claim.1, small_claim.2.1, small_oldest⟩

theorem witness_TakeTurnsClaimIntoHold :
    Serves small 2 ∧ NamesFrame small 0x80010002 ∧ OldestClaim small 2 (handleIndex 0x80010002) 0 ∧
      (small.frame (handleIndex 0x80010002)).refs = 1 :=
  ⟨small_claim.1, small_claim.2.1, small_oldest, small_claim.2.2.1⟩

theorem witness_ReleaseReturnsEntry :
    Serves small 2 ∧ NamesFrame small 0x80010002 ∧ OldestClaim small 2 (handleIndex 0x80010002) 0 ∧
      TakesReturns (small.queue (small.entry 0).home) ∧
      (small.entry 0).redeliveries < (small.queue (small.entry 0).home).limit :=
  ⟨small_claim.1, small_claim.2.1, small_oldest, .inl (by decide +kernel), by decide +kernel⟩

/-- The claim of `small`, at its redelivery limit. -/
def atLimit : State := withQueue 14 fun x => { x with limit := 0 }

theorem atLimit_oldest : OldestClaim atLimit 2 (handleIndex 0x80010002) 0 :=
  ⟨[], [], by decide +kernel, by decide +kernel, fun x hx => by cases hx⟩

/-- The claim of `small`, at its redelivery limit, in a DRAINING queue. -/
def drainingAtLimit : State := withQueue 14 fun x =>
  { x with limit := 0, state := .draining, requester := some .control }

/-- From an OPEN home queue, and from a DRAINING one. -/
theorem witness_ReleaseMovesToDeadLetterQueue :
    (Serves atLimit 2 ∧ NamesFrame atLimit 0x80010002 ∧
      OldestClaim atLimit 2 (handleIndex 0x80010002) 0 ∧
      TakesReturns (atLimit.queue (atLimit.entry 0).home) ∧
      (atLimit.queue (atLimit.entry 0).home).limit ≤ (atLimit.entry 0).redeliveries ∧
      MayMoveTo atLimit 0 30) ∧
    Serves drainingAtLimit 2 ∧ NamesFrame drainingAtLimit 0x80010002 ∧
      OldestClaim drainingAtLimit 2 (handleIndex 0x80010002) 0 ∧
      TakesReturns (drainingAtLimit.queue (drainingAtLimit.entry 0).home) ∧
      (drainingAtLimit.queue (drainingAtLimit.entry 0).home).limit ≤
        (drainingAtLimit.entry 0).redeliveries ∧
      MayMoveTo drainingAtLimit 0 30 :=
  ⟨⟨by decide +kernel, by decide +kernel, atLimit_oldest, .inl (by decide +kernel), by decide +kernel,
      (moveTarget_eq_some _ _ _).mp (by decide +kernel)⟩,
    by decide +kernel, by decide +kernel,
    ⟨[], [], by decide +kernel, by decide +kernel, fun x hx => by cases hx⟩,
    .inr (.inr (by decide +kernel)), by decide +kernel,
    (moveTarget_eq_some _ _ _).mp (by decide +kernel)⟩

/-- No dead-letter queue; the claim is at its limit. -/
def undeliverable : State := { atLimit with deadLetter := none }

theorem undeliverable_stays (e : EntryId) (d : QueueId) : ¬MayMoveTo undeliverable e d := fun h => by
  cases h.1

/-- Dropped at the limit from an OPEN queue and a DRAINING one, from a CLOSED queue, and into a flush. -/
theorem witness_ReleaseDropsEntry :
    let draining := { drainingAtLimit with deadLetter := none }
    let closed := withQueue 14 fun x => { x with state := .closed, normal := [] }
    let flushing := withQueue 14 fun x => { x with state := .flushing, requester := some .control }
    (Serves undeliverable 2 ∧ NamesFrame undeliverable 0x80010002 ∧
      OldestClaim undeliverable 2 (handleIndex 0x80010002) 0 ∧ DropsWithNotice undeliverable 0) ∧
    (Serves draining 2 ∧ NamesFrame draining 0x80010002 ∧
      OldestClaim draining 2 (handleIndex 0x80010002) 0 ∧ DropsWithNotice draining 0) ∧
    (Serves closed 2 ∧ NamesFrame closed 0x80010002 ∧
      OldestClaim closed 2 (handleIndex 0x80010002) 0 ∧ DropsWithNotice closed 0) ∧
    Serves flushing 2 ∧ NamesFrame flushing 0x80010002 ∧
      OldestClaim flushing 2 (handleIndex 0x80010002) 0 ∧
      (flushing.queue (flushing.entry 0).home).state = .flushing :=
  ⟨⟨by decide +kernel, by decide +kernel,
      ⟨[], [], by decide +kernel, by decide +kernel, fun x hx => by cases hx⟩,
      .inr ⟨.inl (by decide +kernel), by decide +kernel, undeliverable_stays 0⟩⟩,
    ⟨by decide +kernel, by decide +kernel,
      ⟨[], [], by decide +kernel, by decide +kernel, fun x hx => by cases hx⟩,
      .inr ⟨.inr (.inr (by decide +kernel)), by decide +kernel, fun d h => by cases h.1⟩⟩,
    ⟨by decide +kernel, by decide +kernel,
      ⟨[], [], by decide +kernel, by decide +kernel, fun x hx => by cases hx⟩, .inl (by decide +kernel)⟩,
    by decide +kernel, by decide +kernel,
    ⟨[], [], by decide +kernel, by decide +kernel, fun x hx => by cases hx⟩, by decide +kernel⟩

/-- The last claim of a drained queue, handed over as an expiry too; agent 2 is its drain's requester and the
frame's source. -/
def lastClaim : State :=
  ({ drainingAtLimit with handedOver := [0] }.setQueue 14
      { drainingAtLimit.queue 14 with normal := [], requester := some (.agent 2) }).setFrame 2
    { drainingAtLimit.frame 2 with source := 2 }

/-- COMPLETE, TAKE, and RELEASE and expiry at the limit; with a dead-letter move and without. -/
theorem witness_LastClaimClosesDrainingQueue :
    ((lastClaim.queue (lastClaim.entry 0).home).state = .draining ∧
      queuedCount lastClaim (lastClaim.entry 0).home = 0 ∧
      claimCount lastClaim (lastClaim.entry 0).home = 1 ∧
      (lastClaim.queue (lastClaim.entry 0).home).requester = some (.agent 2) ∧
      0 ∈ (lastClaim.agent 2).claims) ∧
    (Serves lastClaim 2 ∧ NamesFrame lastClaim 0x80010002 ∧
      OldestClaim lastClaim 2 (handleIndex 0x80010002) 0 ∧
      (lastClaim.frame (handleIndex 0x80010002)).refs = 1) ∧
    (lastClaim.handedOver = [0] ∧ (lastClaim.entry 0).claimant = some 2) ∧
    ((lastClaim.frame (lastClaim.entry 0).frame).source = 2 ∧ (lastClaim.agent 2).state = .online ∧
      (lastClaim.agent 2).notices.length ≤ 14) ∧
    (lastClaim.queue (lastClaim.entry 0).home).limit ≤ (lastClaim.entry 0).redeliveries ∧
      MayMoveTo lastClaim 0 30 ∧ ∀ d, ¬MayMoveTo { lastClaim with deadLetter := none } 0 d :=
  ⟨⟨by decide +kernel, by decide +kernel, by decide +kernel, by decide +kernel, by decide +kernel⟩,
    ⟨by decide +kernel, by decide +kernel,
      ⟨[], [], by decide +kernel, by decide +kernel, fun x hx => by cases hx⟩, by decide +kernel⟩,
    ⟨by decide +kernel, by decide +kernel⟩, ⟨by decide +kernel, by decide +kernel, by decide +kernel⟩,
    by decide +kernel, (moveTarget_eq_some _ _ _).mp (by decide +kernel), fun d h => by cases h.1⟩

/-- Each clause: below the limit; at the limit with a move and with none, from an OPEN queue and a DRAINING
one; a CLOSED home queue and a FLUSHING one. -/
theorem witness_ExpiryEndsClaim :
    let handed (s : State) : Prop :=
      { s with handedOver := [0] }.handedOver = [0] ∧ (s.entry 0).claimant = some 2
    let draining := { drainingAtLimit with deadLetter := none }
    let closed := withQueue 14 fun x => { x with state := .closed, normal := [] }
    let flushing := withQueue 14 fun x => { x with state := .flushing, requester := some .control }
    (handed small ∧ TakesReturns (small.queue (small.entry 0).home) ∧
      (small.entry 0).redeliveries < (small.queue (small.entry 0).home).limit) ∧
    (handed atLimit ∧ TakesReturns (atLimit.queue (atLimit.entry 0).home) ∧
      (atLimit.queue (atLimit.entry 0).home).limit ≤ (atLimit.entry 0).redeliveries ∧
      MayMoveTo atLimit 0 30) ∧
    (handed drainingAtLimit ∧ TakesReturns (drainingAtLimit.queue (drainingAtLimit.entry 0).home) ∧
      (drainingAtLimit.queue (drainingAtLimit.entry 0).home).limit ≤
        (drainingAtLimit.entry 0).redeliveries ∧
      MayMoveTo drainingAtLimit 0 30) ∧
    (handed undeliverable ∧ DropsWithNotice undeliverable 0) ∧
    (handed draining ∧ DropsWithNotice draining 0) ∧ (handed closed ∧ DropsWithNotice closed 0) ∧
    handed flushing ∧ (flushing.queue (flushing.entry 0).home).state = .flushing :=
  ⟨⟨⟨rfl, by decide +kernel⟩, .inl (by decide +kernel), by decide +kernel⟩,
    ⟨⟨rfl, by decide +kernel⟩, .inl (by decide +kernel), by decide +kernel,
      (moveTarget_eq_some _ _ _).mp (by decide +kernel)⟩,
    ⟨⟨rfl, by decide +kernel⟩, .inr (.inr (by decide +kernel)), by decide +kernel,
      (moveTarget_eq_some _ _ _).mp (by decide +kernel)⟩,
    ⟨⟨rfl, by decide +kernel⟩,
      .inr ⟨.inl (by decide +kernel), by decide +kernel, undeliverable_stays 0⟩⟩,
    ⟨⟨rfl, by decide +kernel⟩,
      .inr ⟨.inr (.inr (by decide +kernel)), by decide +kernel, fun d h => by cases h.1⟩⟩,
    ⟨⟨rfl, by decide +kernel⟩, .inl (by decide +kernel)⟩, ⟨rfl, by decide +kernel⟩, by decide +kernel⟩

theorem witness_TickHandsOverDueClaims : small.controller ≠ .init ∧ small.handedOver = [] := by
  decide +kernel

/-- Every check passes for a hold, for a claim and for 0; no right is held; the prefix fails. -/
theorem witness_BindNamesFrame :
    (PortTakes small (agentPort 1) ∧ prefixAnswer small 1 = none ∧ handleAnswer small 0x80010001 = none ∧
      (small.frame (handleIndex 0x80010001)).state = .held ∧
      (small.frame (handleIndex 0x80010001)).holder = some 1) ∧
    (PortTakes small (agentPort 2) ∧ prefixAnswer small 2 = none ∧ handleAnswer small 0x80010002 = none ∧
      (small.agent 2).claims = [0] ∧ (small.entry 0).frame = handleIndex 0x80010002) ∧
    (handleAnswer small 0x80010003 = none ∧ (small.frame (handleIndex 0x80010003)).state ≠ .held ∧
      (small.agent 1).claims = []) ∧
    PortTakes State.reset (agentPort 1) ∧ prefixAnswer State.reset 1 = some .notRunning := by
  decide +kernel

/-- The last word of the frame, 15, and the first beyond it. -/
theorem witness_ApertureReadsBoundFrame :
    FrameTableLaw small ∧ PortTakes small (agentPort 2) ∧ (small.agent 2).binding = some 0x80010002 ∧
      4 * (15 : BitVec 9).toNat < sizeOfFrame small (handleIndex 0x80010002) ∧
      (small.frame (handleIndex 0x80010002)).state = .posted ∧
      0 ∈ (small.agent 2).claims ∧ (small.entry 0).frame = handleIndex 0x80010002 :=
  ⟨small_frameTable, by decide +kernel, by decide +kernel, by decide +kernel, by decide +kernel,
    by decide +kernel, by decide +kernel⟩

theorem witness_ApertureWritesHeldFrame :
    FrameTableLaw small ∧ MemoryLaw small ∧ PortTakes small (agentPort 1) ∧
      (small.agent 1).binding = some 0x80010001 ∧
      4 * (15 : BitVec 9).toNat < sizeOfFrame small (handleIndex 0x80010001) ∧
      (small.frame (handleIndex 0x80010001)).state = .held ∧
      (small.frame (handleIndex 0x80010001)).holder = some 1 :=
  ⟨small_frameTable, by decide +kernel, by decide +kernel, by decide +kernel, by decide +kernel,
    by decide +kernel, by decide +kernel⟩

/-- Unsmall; beyond the frame, at word 16; and, for a write, a claimed frame. -/
theorem witness_ApertureRefusesWithoutRight :
    PortTakes small (agentPort 3) ∧ (small.agent 3).binding = none ∧
      PortTakes small (agentPort 2) ∧ (small.agent 2).binding = some 0x80010002 ∧
      sizeOfFrame small (handleIndex 0x80010002) ≤ 4 * (16 : BitVec 9).toNat ∧
      (small.frame (handleIndex 0x80010002)).state ≠ .held := by decide +kernel

theorem witness_FramesFollowOneAnother : FrameTableLaw small ∧ (4 : FrameIdx).val < small.built :=
  ⟨small_frameTable, by decide +kernel⟩

/-- Refused while ONLINE; accepted while OFFLINE and enabled. -/
theorem witness_AttachBringsOnline :
    PortTakes small (agentPort 5) ∧ small.controller = .running ∧ (small.agent 5).state = .online ∧
      ((withAgent 5 fun x => { x with state := .offline }).agent 5).state = .offline ∧
      ((withAgent 5 fun x => { x with state := .offline }).agent 5).enable = true := by decide +kernel

theorem witness_RetireBegins :
    Serves small 2 ∧ small.resetLine .a = false ∧ PortTakes State.reset .a ∧
      prefixAnswer State.reset 2 = some .notRunning ∧ State.reset.controller ≠ .running := by
  decide +kernel

theorem witness_PortResetRetiresOnlineAgents :
    small.resetLine .a = false ∧ { small with rstA := true }.resetLine .a = true := by decide +kernel

/-- A command and a plain read are held. -/
theorem witness_PortResetReleaseTakesHeldAccesses :
    small.heldAccesses .a = [] ∧
      let s := { small with
        rstB := true, heldB := [.command (.alloc 5 0), .read (.agent 5 .lastResult)] }
      s.heldAccesses .b = [.command (.alloc 5 0), .read (.agent 5 .lastResult)] ∧
        ∀ c, .command c ∈ s.heldAccesses .b → (accessPort c).isSome = true :=
  ⟨rfl, rfl, fun c h => by
    cases h with
    | head => rfl
    | tail _ h => rcases List.mem_singleton.mp h with ⟨⟩⟩

/-- Returned to an OPEN queue; dropped by a CLOSED one, and by a FLUSHING one. -/
theorem witness_RetireClaimStepReturnsNewest :
    let s := withAgent 2 fun x => { x with state := .retiring, cause := some .detach }
    let closed := s.setQueue 14 { s.queue 14 with state := .closed, normal := [] }
    let flushing := s.setQueue 14 { s.queue 14 with state := .flushing, requester := some .control }
    ((s.agent 2).state = .retiring ∧ (s.agent 2).claims = [] ++ [0] ∧ (0 : EntryId) ∉ ([] : List EntryId) ∧
      TakesReturns (s.queue (s.entry 0).home)) ∧
    ((closed.agent 2).state = .retiring ∧ (closed.agent 2).claims = [] ++ [0] ∧
      (closed.queue (closed.entry 0).home).state = .closed) ∧
    (flushing.agent 2).state = .retiring ∧ (flushing.agent 2).claims = [] ++ [0] ∧
      (flushing.queue (flushing.entry 0).home).state = .flushing :=
  ⟨⟨by decide +kernel, by decide +kernel, by simp, .inl (by decide +kernel)⟩,
    ⟨by decide +kernel, by decide +kernel, by decide +kernel⟩, by decide +kernel, by decide +kernel,
    by decide +kernel⟩

theorem witness_RetireFreeStepFreesOldestOrEnds :
    let s := withAgent 1 fun x => { x with state := .retiring, cause := some .retire }
    let u := withAgent 3 fun x => { x with state := .retiring, cause := some .retire }
    ((s.agent 1).state = .retiring ∧ (s.agent 1).claims = [] ∧ (s.agent 1).held = [1]) ∧
      (u.agent 3).state = .retiring ∧ (u.agent 3).claims = [] ∧ (u.agent 3).held = [] ∧
      (u.agent 3).cause = some .retire := by decide +kernel

theorem witness_StagingAndEnablesWrittenWhileOnline : PortTakes small (agentPort 1) := by
  decide +kernel

/-- A record with the greatest count, an empty list, and an agent that is not ONLINE; an event and none. -/
theorem witness_OldestRecordRead :
    let n : Notice :=
      { kind := .flushDone, queue := 14, count := 1024, outcome := .none, handle := none }
    (PortTakes small (agentPort 2) ∧
      ((withAgent 2 fun x => { x with notices := [n] }).agent 2).state = .online ∧
      ((withAgent 2 fun x => { x with notices := [n] }).agent 2).notices = [n] ∧ n.count ≤ 1024) ∧
    (small.agent 2).notices = [] ∧ (State.reset.agent 2).state ≠ .online ∧
    { small with events := [.queueClosed 3] }.events = [.queueClosed 3] ∧ small.events = [] := by
  decide +kernel

/-- Codes 0 and 8 of an agent page; code 11, operand 32 and bit 16 of the control page; code 7 of both. On an
agent page a write is ignored up to 09Ch, where POST is next; at 0CCh, behind Staging Length; up to 0ECh,
where Interrupt Enable is next; and from 0F4h to 7FCh. -/
theorem witness_UnknownCommandsAnswered :
    PortTakes small .a ∧ (7 < (8 : Byte).toNat) ∧ (7 : Byte).toNat ≤ 7 ∧
      10 < ((0x0000000B : Word).extractLsb' 0 8).toNat ∧
      31 < ((0x00002003 : Word).extractLsb' 8 8).toNat ∧
      7 < ((0x00000809 : Word).extractLsb' 8 8).toNat ∧
      ((0x00001F07 : Word).extractLsb' 8 8).toNat = 31 ∧
      (0x00010001 : Word).extractLsb' 16 16 ≠ 0 ∧
      [0x27, 0x28, 0x32, 0x33, 0x3B, 0x3C, 0x3D, 0x1FF, 0x200].map
          (fun offset => ignoresWrites (place .b 3 offset)) =
        [true, false, false, true, true, false, true, true, false] ∧
      [0, 1, 2, 3, 8, 9, 0xF, 0x10, 0x13, 0x14, 0x17, 0x18, 0x27, 0x28, 0x3F, 0x40, 0x7F, 0x80].map
          (fun offset => ignoresWrites (place .a 8 offset)) =
        [true, false, true, false, false, true, true, false, false, true, true, false, false, true, true,
          false, false, true] ∧
      ignoresWrites (place .b 8 1) = true ∧ ignoresWrites (place .a 4 0x28) = true := by
  decide +kernel

/-- Each state that a command starts from, and both pages. -/
theorem witness_QueueStateCommandsAccepted :
    CommandServed small .control 3 ∧ (small.queue 3).state = .disabled ∧
      CommandServed small (.agent 2) 14 ∧ (small.queue 14).state = .open ∧
      CommandServed (withQueue 14 fun x => { x with state := .paused }) (.agent 2) 14 ∧
      CommandServed (withQueue 14 fun x => { x with state := .closed, normal := [] }) (.agent 2) 14 ∧
      ((withQueue 30 fun x => { x with state := .closed }).queue 30).state = .closed ∧
      claimCount (withQueue 30 fun x => { x with state := .closed }) 30 = 0 ∧ PortTakes small .a := by
  refine ⟨⟨rfl, rfl⟩, by decide +kernel, ?_, by decide +kernel, ?_, ?_, by decide +kernel,
    by decide +kernel, by decide +kernel⟩ <;>
    exact ⟨by decide +kernel, by decide +kernel, by decide +kernel⟩

theorem witness_DrainAndFlushAccepted :
    CommandServed small (.agent 2) 14 ∧ (small.queue 14).state = .open ∧
      0 < queuedCount small 14 + claimCount small 14 ∧
      CommandServed small .control 30 ∧ (small.queue 30).state = .open ∧
      queuedCount small 30 + claimCount small 30 = 0 :=
  ⟨⟨by decide +kernel, by decide +kernel, by decide +kernel⟩, by decide +kernel, by decide +kernel,
    ⟨rfl, rfl⟩, by decide +kernel, by decide +kernel⟩

/-- OPEN of an OPEN queue, from each page; DISABLE of a queue with a claim. -/
theorem witness_QueueCommandsRefused :
    PortTakes small .a ∧ prefixAnswer small 2 = none ∧ (small.queue 14).consumer = 2 ∧
      (small.queue 14).state = .open ∧
      (.openQueue (.agent 2) 14, [.disabled, .closed], .open, 3) ∈ queueCommands (.agent 2) 14 ∧
      (small.queue 14).state ∉ [QueueState.disabled, .closed] ∧
      (.openQueue .control 14, [.disabled, .closed], .open, 3) ∈ queueCommands .control 14 ∧
      (small.queue 14).state ≠ .closed := by decide +kernel

/-- A normal entry in front, an urgent one, and an empty queue with a requester. -/
theorem witness_FlushStepDropsOrEnds :
    let s := withQueue 14 fun x => { x with state := .flushing, requester := some .control }
    let u := withQueue 14 fun x =>
      { x with state := .flushing, requester := some .control, normal := [] }
    ((s.queue 14).state = .flushing ∧ FrontEntry (s.queue 14) 1 { s.queue 14 with normal := [] }) ∧
      (u.queue 14).state = .flushing ∧ (u.queue 14).urgent = [] ∧ (u.queue 14).normal = [] ∧
      (u.queue 14).requester = some .control :=
  ⟨⟨by decide +kernel, .inr ⟨[], by decide +kernel, by decide +kernel, rfl⟩⟩, by decide +kernel,
    by decide +kernel, by decide +kernel, by decide +kernel⟩

/-- The greatest count and the first above it, in CONFIG; the other states; a DISABLED queue and an OPEN
one. -/
theorem witness_PoolAndQueueConfigurationWritten :
    PortTakes State.reset .a ∧ State.reset.controller = .config ∧
      (poolOfWord Pool.reset 0x00004000).isSome = true ∧
      1024 < ((0x00004010 : Word).extractLsb' 4 11).toNat ∧
      PortTakes small .a ∧ small.controller = .running ∧
      PortTakes { small with controller := .formatting } .a ∧
      (small.queue 3).state = .disabled ∧ (small.queue 14).state ≠ .disabled ∧
      (queueOfWord Queue.reset .second 0x04000400).isSome = true ∧
      (queueOfWord Queue.reset .second 0x04010400).isNone = true := by decide +kernel

/-- Quota 1024 and limit 64, the greatest; quota 0; a change while ONLINE and none. -/
theorem witness_AgentConfigurationWritten :
    PortTakes small .a ∧ (agentOfWord Agent.reset 0x01400400).isSome = true ∧
      (agentOfWord Agent.reset 0x01400000).isNone = true ∧ (small.agent 3).state ≠ .offline ∧
      (small.agent 3).quota = ((0x00040008 : Word).extractLsb' 0 11).toNat ∧
      (small.agent 3).claimLimit = ((0x00040008 : Word).extractLsb' 16 7).toNat ∧
      (State.reset.agent 3).state = .offline := by decide +kernel

/-- The ends of the ranges. -/
theorem witness_SingleRegistersWritten :
    PortTakes small .a ∧ (prescalerOfWord 1).isSome = true ∧ (prescalerOfWord 65536).isSome = true ∧
      (prescalerOfWord 0).isNone = true ∧ (prescalerOfWord 65537).isNone = true ∧
      (selectionOfWord 0x8000001F).isSome = true ∧ (selectionOfWord 0x20).isNone = true ∧
      (enableOfWord 1).isSome = true ∧ (enableOfWord 2).isNone = true := by decide +kernel

/-- The layout of chapter 10's example, with 131072 bytes exactly and with 512 more; a mark above its
count. -/
theorem witness_FormatChecksDefinitions :
    PortTakes (defined 0) .a ∧ (defined 0).controller = .config ∧ layoutBytes (defined 0) = 131072 ∧
      frameTotal (defined 0) = 592 ∧
      (∀ p, ((defined 0).pool p).lowWater ≤ ((defined 0).pool p).count) ∧
      layoutBytes (defined 8) = 131584 ∧
      (let s := (defined 0).setPool 3 { Pool.reset with lowWater := 1 }
       (s.pool 3).count < (s.pool 3).lowWater) ∧
      PortTakes small .a ∧ small.controller = .running := by decide +kernel

/-- The last index of pool 0, and the end of the build. -/
theorem witness_BuildEntersFramesAndCompletes :
    let s := { defined 0 with controller := .formatting, built := 511 }
    s.controller = .formatting ∧ (511 : FrameIdx).val = s.built ∧ s.built < frameTotal s ∧
      poolFirst s 0 ≤ 511 ∧ 511 < poolFirst s 0 + (s.pool 0).count ∧
      { s with built := 592 }.built = frameTotal s := by decide +kernel

theorem witness_ScrubClearsFrontFrame : small.controller = .running ∧ small.scrubList = [4] := by
  decide +kernel

theorem witness_RestartClearsTraffic : PortTakes small .a := by decide +kernel

/-- A held access, and one in INIT; a plain read, of Last Result at 0E0h. -/
theorem witness_AccessesNotTaken :
    let x : BusAccess := { port := .b, address := 0x0438, lanes := 0xF, written := none }
    WellFormed (.alloc 5 0) = true ∧ accessPort (.alloc 5 0) = some .b ∧
      { small with rstB := true }.resetLine .b = true ∧ small.resetLine .b = false ∧
      { State.reset with controller := .init }.controller = .init ∧
      x.place = .agent 5 .lastResult ∧ readCommand x.place x.lanes = none ∧ PortTakes small .b := by
  decide +kernel

/-- A well-formed handle, and a word that each register accepts. -/
theorem witness_HandlesAndConfigurationReadBack :
    handleWellFormed 0x801F03FF = true ∧ (poolOfWord Pool.reset 0x04004005).isSome = true ∧
      (queueOfWord Queue.reset .first 0xFFFFFF77).isSome = true ∧
      (queueOfWord Queue.reset .second 0x04000400).isSome = true ∧
      (agentOfWord Agent.reset 0x01400400).isSome = true ∧
      (selectionOfWord 0x8000001F).isSome = true ∧ (prescalerOfWord 65536).isSome = true ∧
      (enableOfWord 1).isSome = true := by decide +kernel

/-- The part of `small` takes a step: agent 2 completes its claim. -/
theorem small_steps : ∃ t, step small = .next t := by
  have h : (match step small with
    | .next _ => true
    | .fault _ | .refused _ => false) = true := by decide +kernel
  revert h
  cases step small with
  | next t => exact fun _ => ⟨t, rfl⟩
  | fault r => exact fun h => by cases h
  | refused r => exact fun h => by cases h

theorem witness_EveryStepKeepsMemoryLaw : MemoryLaw small ∧ ∃ t, step small = .next t :=
  ⟨small_memory, small_steps⟩

theorem witness_EveryStepKeepsControllerAndPortLaws :
    ControllerLaw small ∧ HeldLaw small ∧ ∃ t, step small = .next t :=
  ⟨small_controller, small_held, small_steps⟩

theorem witness_EveryStepKeepsAgentLaw :
    (AgentLaw small ∧ ∃ t, step small = .next t) ∧ ControllerLaw small ∧ FrameTableLaw small ∧
      EntryLaw small ∧ ReferenceLaw small ∧ BindingLaw small :=
  ⟨⟨small_agents, small_steps⟩, small_controller, small_frameTable, small_entries, small_references,
    small_bindings⟩

theorem witness_EveryStepKeepsQueueLaw :
    (QueueLaw small ∧ ∃ t, step small = .next t) ∧ EntryLaw small ∧ AgentLaw small ∧ DepthLaw small :=
  ⟨⟨small_queues, small_steps⟩, small_entries, small_agents, small_depths⟩

theorem witness_EveryStepKeepsFrameTableLaw : FrameTableLaw small ∧ ∃ t, step small = .next t :=
  ⟨small_frameTable, small_steps⟩

theorem witness_EveryStepKeepsEntryLaw :
    EntryLaw small ∧ AgentLaw small ∧ ∃ t, step small = .next t :=
  ⟨small_entries, small_agents, small_steps⟩

theorem witness_EveryStepKeepsDepthLaw :
    EntryLaw small ∧ AgentLaw small ∧ QueueLaw small ∧ DepthLaw small ∧ ∃ t, step small = .next t :=
  ⟨small_entries, small_agents, small_queues, small_depths, small_steps⟩

theorem witness_EveryStepKeepsReferenceLaw :
    EntryLaw small ∧ AgentLaw small ∧ FrameTableLaw small ∧ ReferenceLaw small ∧
      ∃ t, step small = .next t :=
  ⟨small_entries, small_agents, small_frameTable, small_references, small_steps⟩

theorem witness_EveryStepKeepsDeadlineLaw :
    EntryLaw small ∧ AgentLaw small ∧ DeadlineLaw small ∧ ∃ t, step small = .next t :=
  ⟨small_entries, small_agents, small_deadlines, small_steps⟩

theorem witness_EveryCommandCompletes :
    FrameTableLaw small ∧ HeldLaw small ∧ WellFormed (.complete 2 0x80010002) = true :=
  ⟨small_frameTable, small_held, rfl⟩

/-- Byte 1 of frame 2, which agent 2 claims, while agent 2 completes its claim. -/
theorem witness_PostedFrameBytesStayFixed :
    MemoryLaw small ∧ FrameTableLaw small ∧ ReferenceLaw small ∧
      (∀ p, Instr.complete 2 0x80010002 ≠ .portResetRelease p) ∧ (small.frame 2).state = .posted ∧
      (∃ t, exec (.complete 2 0x80010002) small = .next t) ∧ frameBase small 2 ≤ 129 ∧
      129 < frameBase small 2 + sizeOfFrame small 2 := by
  refine ⟨small_memory, small_frameTable, small_references, fun p h => by (cases p <;> cases h),
    by decide +kernel, ?_, by decide +kernel, by decide +kernel⟩
  have h : (match exec (.complete 2 0x80010002) small with
    | .next _ => true
    | .fault _ | .refused _ => false) = true := by decide +kernel
  revert h
  cases exec (.complete 2 0x80010002) small with
  | next t => exact fun _ => ⟨t, rfl⟩
  | fault r => exact fun h => by cases h
  | refused r => exact fun h => by cases h

end Sys2Proof.Tests
end

/-!
What a step can do to frames, entries and frame memory. `Quiet s t` says that `t` differs from `s` in nothing
that the laws of memory, the frame table, the entries and the references speak of; `Move` lists the other
changes; and every command is a chain of moves (`exec_moves`). Each of those laws is then proved once for each
move.
-/

section

-- Taken one after the other, the proofs need one thread (see Tests/Slice0.lean).
set_option Elab.async false

namespace Sys2Proof.Machine

/-! ## Quiet changes -/

/-- The frame records, the lists of frames and the extent of the frame table are the same. -/
structure SameFrames (s t : State) : Prop where
  frames : t.frames = s.frames
  freeLists : t.freeLists = s.freeLists
  scrubList : t.scrubList = s.scrubList
  built : t.built = s.built
  held : ∀ a, (t.agent a).held = (s.agent a).held

/-- The lists of entries are the same, and the entry records but for their deadlines. -/
structure SameEntries (s t : State) : Prop where
  freeEntries : t.freeEntries = s.freeEntries
  urgent : ∀ q, (t.queue q).urgent = (s.queue q).urgent
  normal : ∀ q, (t.queue q).normal = (s.queue q).normal
  claims : ∀ a, (t.agent a).claims = (s.agent a).claims
  entry : ∀ e, t.entry e = { s.entry e with deadline := (t.entry e).deadline }

/-- Nothing has changed that the laws of memory, the frame table, the entries and the references speak of;
the timer's lists may have lost entries, and an agent that goes OFFLINE had nothing. -/
structure Quiet (s t : State) : Prop extends SameFrames s t, SameEntries s t where
  controller : t.controller = s.controller
  activeTotal : t.activeTotal = s.activeTotal
  mem : t.mem = s.mem
  layout : ∀ p, (t.pool p).count = (s.pool p).count ∧ (t.pool p).sizeCode = (s.pool p).sizeCode
  offline : ∀ a, (t.agent a).state = .offline →
    (s.agent a).state = .offline ∨ (s.agent a).held = [] ∧ (s.agent a).claims = []
  timer : ∀ e, e ∈ t.deadlines ∨ e ∈ t.handedOver → e ∈ s.deadlines ∨ e ∈ s.handedOver

theorem SameFrames.trans {s t u : State} (h : SameFrames s t) (k : SameFrames t u) : SameFrames s u where
  frames := k.frames.trans h.frames
  freeLists := k.freeLists.trans h.freeLists
  scrubList := k.scrubList.trans h.scrubList
  built := k.built.trans h.built
  held a := (k.held a).trans (h.held a)

theorem SameEntries.trans {s t u : State} (h : SameEntries s t) (k : SameEntries t u) :
    SameEntries s u where
  freeEntries := k.freeEntries.trans h.freeEntries
  urgent q := (k.urgent q).trans (h.urgent q)
  normal q := (k.normal q).trans (h.normal q)
  claims a := (k.claims a).trans (h.claims a)
  entry e := by rw [k.entry e, h.entry e]

theorem Quiet.trans {s t u : State} (h : Quiet s t) (k : Quiet t u) : Quiet s u where
  toSameFrames := h.toSameFrames.trans k.toSameFrames
  toSameEntries := h.toSameEntries.trans k.toSameEntries
  controller := k.controller.trans h.controller
  activeTotal := k.activeTotal.trans h.activeTotal
  mem := k.mem.trans h.mem
  layout p := ⟨(k.layout p).1.trans (h.layout p).1, (k.layout p).2.trans (h.layout p).2⟩
  offline a ha := by
    rcases k.offline a ha with ho | ⟨h1, h2⟩
    · exact h.offline a ho
    · exact .inr ⟨(h.held a).symm.trans h1, (h.claims a).symm.trans h2⟩
  timer e he := h.timer e (k.timer e he)

/-- `Quiet.trans` with the last change first. -/
theorem Quiet.after {s t u : State} (k : Quiet t u) (h : Quiet s t) : Quiet s u := h.trans k

/-- An update that replaces no table and no list of frames or entries is quiet. -/
theorem Quiet.of_records {s t : State} (frames : t.frames = s.frames := by rfl)
    (freeLists : t.freeLists = s.freeLists := by rfl) (scrubList : t.scrubList = s.scrubList := by rfl)
    (built : t.built = s.built := by rfl) (freeEntries : t.freeEntries = s.freeEntries := by rfl)
    (queues : t.queues = s.queues := by rfl) (agents : t.agents = s.agents := by rfl)
    (entries : t.entries = s.entries := by rfl) (controller : t.controller = s.controller := by rfl)
    (activeTotal : t.activeTotal = s.activeTotal := by rfl) (mem : t.mem = s.mem := by rfl)
    (pools : t.pools = s.pools := by rfl) (deadlines : t.deadlines = s.deadlines := by rfl)
    (handedOver : t.handedOver = s.handedOver := by rfl) : Quiet s t where
  frames := frames
  freeLists := freeLists
  scrubList := scrubList
  built := built
  held a := by rw [State.agent, agents]; rfl
  freeEntries := freeEntries
  urgent q := by rw [State.queue, queues]; rfl
  normal q := by rw [State.queue, queues]; rfl
  claims a := by rw [State.agent, agents]; rfl
  entry e := by rw [State.entry, entries]; rfl
  controller := controller
  activeTotal := activeTotal
  mem := mem
  layout p := by rw [State.pool, pools]; exact ⟨rfl, rfl⟩
  offline a h := .inl (by rw [State.agent, agents] at h; exact h)
  timer e h := by rw [deadlines, handedOver] at h; exact h

theorem Quiet.refl (s : State) : Quiet s s := .of_records

/-- Replacing an agent's context is quiet when it keeps the held list and the claim list. -/
theorem Quiet.setAgent {s : State} {a : AgentId} {x : Agent} (held : x.held = (s.agent a).held)
    (claims : x.claims = (s.agent a).claims)
    (offline : x.state = .offline →
      (s.agent a).state = .offline ∨ (s.agent a).held = [] ∧ (s.agent a).claims = []) :
    Quiet s (s.setAgent a x) :=
  { Quiet.refl s with
    held := fun b => by rw [State.setAgent_agent]; split <;> simp_all
    claims := fun b => by rw [State.setAgent_agent]; split <;> simp_all
    offline := fun b hb => by
      rw [State.setAgent_agent] at hb
      split at hb
      · rename_i e; exact e ▸ offline hb
      · exact .inl hb }

/-- The same, with the agent's state kept. -/
theorem Quiet.agentFields {s : State} {a : AgentId} {x : Agent} (held : x.held = (s.agent a).held)
    (claims : x.claims = (s.agent a).claims) (state : x.state = (s.agent a).state) :
    Quiet s (s.setAgent a x) := .setAgent held claims fun h => .inl (state ▸ h)

/-- Replacing a queue's record is quiet when it keeps the two lists. -/
theorem Quiet.setQueue {s : State} {q : QueueId} {x : Queue} (urgent : x.urgent = (s.queue q).urgent)
    (normal : x.normal = (s.queue q).normal) : Quiet s (s.setQueue q x) :=
  { Quiet.refl s with
    urgent := fun r => by rw [State.setQueue_queue]; split <;> simp_all
    normal := fun r => by rw [State.setQueue_queue]; split <;> simp_all }

/-- Replacing a pool's definition is quiet when it keeps the count and the size. -/
theorem Quiet.setPool {s : State} {p : PoolId} {x : Pool} (count : x.count = (s.pool p).count)
    (size : x.sizeCode = (s.pool p).sizeCode) : Quiet s (s.setPool p x) :=
  { Quiet.refl s with
    layout := fun r => by rw [State.setPool_pool]; split <;> simp_all }

/-! ### The shared operations that are quiet -/

theorem Quiet.answer (s : State) (a : AgentId) (c : ResultCode) (k : Action) (w : Word) :
    Quiet s (s.answer a c k w) := .agentFields rfl rfl rfl

theorem Quiet.returns (s : State) (p : Port) (w : Word) : Quiet s (s.returns p w) := by
  cases p <;> exact .of_records

theorem Quiet.setHeldAccesses (s : State) (p : Port) (l : List HeldAccess) :
    Quiet s (s.setHeldAccesses p l) := by cases p <;> exact .of_records

theorem Quiet.setResetLine (s : State) (p : Port) (b : Bool) : Quiet s (s.setResetLine p b) := by
  cases p <;> exact .of_records

theorem Quiet.controlAnswer (s : State) (c : ControlCode) (k : ControlSubject) (n : Nat) :
    Quiet s (s.controlAnswer c k n) := .of_records

theorem Quiet.offerNotice (a : AgentId) (n : Notice) (s : State) : Quiet s (offerNotice a n s) := by
  rw [offerNotice_eq]
  unfold noticed
  refine .agentFields ?_ ?_ ?_ <;> split <;> (try split) <;> rfl

theorem Quiet.offerEvent (e : SupervisorEvent) (s : State) : Quiet s (offerEvent e s) := by
  rw [offerEvent_eq]; exact .of_records

theorem Quiet.report (r : Option Requester) (n : Notice) (e : SupervisorEvent) (s : State) :
    Quiet s (report r n e s) := by
  rcases r with _ | ⟨a⟩ | _
  · exact .refl s
  · exact .offerNotice a n s
  · exact .offerEvent e s

theorem Quiet.unbind (a : AgentId) (f : FrameIdx) (s : State) : Quiet s (unbind a f s) := by
  rw [unbind_eq]; exact .agentFields rfl rfl rfl

theorem Quiet.unbindWithoutClaim (a : AgentId) (f : FrameIdx) (s : State) :
    Quiet s (unbindWithoutClaim a f s) := by
  rw [unbindWithoutClaim_eq]; exact .agentFields rfl rfl rfl

theorem Quiet.drainCompletion (q : QueueId) (s : State) : Quiet s (drainCompletion q s) := by
  rw [drainCompletion_eq]
  split
  · exact .after (.report ..) (.setQueue rfl rfl)
  · exact .refl s

theorem Quiet.lowWaterTest (p : PoolId) (s : State) : Quiet s (lowWaterTest p s) := by
  unfold Machine.lowWaterTest
  dsimp only
  split
  · exact .after (.offerEvent ..) (.setPool rfl rfl)
  · exact .refl s

theorem Quiet.reArmTest (p : PoolId) (s : State) : Quiet s (reArmTest p s) := by
  unfold Machine.reArmTest
  split
  · exact .setPool rfl rfl
  · exact .refl s

theorem Quiet.leaveDeadlines (e : EntryId) (s : State) : Quiet s (leaveDeadlines e s) :=
  { Quiet.refl s with
    entry := fun d => by
      have h : (Machine.leaveDeadlines e s).entry d =
          if d = e then { s.entry e with deadline := none } else s.entry d := Table.get_set ..
      rw [h]
      split
      · rename_i h; subst h; rfl
      · rfl
    timer := fun d => Or.imp List.mem_of_mem_erase List.mem_of_mem_erase }

theorem Quiet.beginRetire (a : AgentId) (c : RetireCause) (s : State) : Quiet s (beginRetire a c s) := by
  refine .after (t := s.setAgent a ((s.agent a).retiringFor c)) ?_ (.setAgent rfl rfl nofun)
  have queue (q : QueueId) : (Machine.beginRetire a c s).queue q = (s.queue q).pauseFor a := Table.get_map ..
  have lists (x : Queue) : (x.pauseFor a).urgent = x.urgent ∧ (x.pauseFor a).normal = x.normal := by
    unfold Queue.pauseFor
    split <;> exact ⟨rfl, rfl⟩
  exact
    { Quiet.refl _ with
      urgent := fun q => queue q ▸ (lists _).1
      normal := fun q => queue q ▸ (lists _).2 }

theorem Quiet.plainRead (p : Port) (x : Place) (s : State) : Quiet s (plainRead p x s) := by
  unfold Machine.plainRead
  split
  · exact .setHeldAccesses ..
  · exact .returns ..

theorem Quiet.tickNow (s : State) : Quiet s (tickNow s) :=
  { Quiet.refl s with
    timer := fun _ h => .inl (h.elim id fun h => (List.takeWhile_sublist _).subset h) }

theorem Quiet.clockPeriod (s : State) : Quiet s (clockPeriod s) := by
  unfold Machine.clockPeriod
  split
  · split
    · exact .tickNow s
    · exact .of_records
  · exact .refl s

end Sys2Proof.Machine

end

section

-- Taken one after the other, the proofs need one thread (see Tests/Slice0.lean).
set_option Elab.async false

namespace Sys2Proof.Machine

/-! ## Moves -/

/-- The entry `e` is a claim of the agent to end: it is on the agent's claim list, or its expiry has been handed
over and it names the agent as claimant. -/
def Claimed (s : State) (a : AgentId) (e : EntryId) : Prop :=
  e ∈ (s.agent a).claims ∨ e ∈ s.handedOver ∧ (s.entry e).claimant = some a

/-- Up to a quiet change, the entry `e` has been taken off the list it stood on: the claim list of an agent, or
the front of a queue. -/
inductive TakenOff (s u : State) (e : EntryId) : Prop
  | claim (a : AgentId) (claimed : Claimed s a e) (ended : Quiet (endClaim a e s) u)
  | front (q : QueueId) (front : (s.queue q).front = some e)
      (popped : Quiet (s.setQueue q (s.queue q).popFront) u)

/-- No frame is in use and no entry is: RESTART and PORST# leave the part so. -/
structure Emptied (t : State) : Prop where
  controller : t.controller = .init ∨ t.controller = .config
  built : t.built = 0
  frame : ∀ f, (t.frame f).state = .free ∧ (t.frame f).refs = 0 ∧ (t.frame f).holder = none
  freeList : ∀ p, t.freeList p = []
  scrubList : t.scrubList = []
  entry : ∀ e, (t.entry e).place = .free ∧ (t.entry e).claimant = none
  freeEntries : t.freeEntries = List.finRange 2048
  queue : ∀ q, (t.queue q).urgent = [] ∧ (t.queue q).normal = []
  agent : ∀ a, (t.agent a).held = [] ∧ (t.agent a).claims = []
  deadlines : t.deadlines = []
  handedOver : t.handedOver = []

/-- The build enters frame `f`: `buildFrame` but for the clear of its bytes (`buildFrame_cases`). -/
def enterFrame (f : FrameIdx) (s : State) : State :=
  let p := poolOfIndex s f.val
  { (s.setFrame f { Frame.absent ((s.frame f).generation + 1) with pool := p }).setFreeList p
      (s.freeList p ++ [f]) with
    built := s.built + 1 }

/-- A build step enters its frame, with its bytes cleared or not. -/
theorem buildFrame_cases (f : FrameIdx) (s : State) : buildFrame f s = enterFrame f s ∨
    ∃ base size, buildFrame f s = enterFrame f { s with mem := s.mem.clear base size } := by
  unfold buildFrame
  dsimp only
  split
  · exact .inr ⟨_, _, rfl⟩
  · exact .inl rfl

/-- The ways in which one command changes frame memory, frames and entries, each with what its checks have
established. A command is a chain of them. -/
inductive Move : State → State → Prop
  /-- Nothing that the laws speak of. -/
  | quiet {s t : State} (h : Quiet s t) : Move s t
  /-- Frame memory alone, kept in its canonical form. -/
  | memory {s : State} {m : Memory} (wf : s.mem.wf → m.wf) : Move s { s with mem := m }
  /-- ATTACH of an OFFLINE agent (R113). -/
  | attach {s : State} {a : AgentId} (offline : (s.agent a).state = .offline) :
      Move s (s.setAgent a ((s.agent a).cleared .online))
  /-- The front frame of a free list becomes HELD (R12). -/
  | alloc {s : State} {a : AgentId} {p : PoolId} {f : FrameIdx} {rest : List FrameIdx}
      (active : (s.agent a).state ≠ .offline) (front : s.freeList p = f :: rest) :
      Move s (allocFrame a f (s.setFreeList p rest))
  /-- A held frame is given back (R14, R121). -/
  | giveBack {s : State} {a : AgentId} {f : FrameIdx}
      (held : f ∈ (s.agent a).held ∨ holds s a f = true) : Move s (giveBack a f s)
  /-- A held frame is posted to queues (R53, R54). -/
  | post {s : State} {a : AgentId} {f : FrameIdx} {qs : List QueueId} (held : holds s a f = true)
      (some : qs ≠ []) (once : qs.Nodup) (room : qs.length ≤ s.freeEntries.length) :
      Move s (postFrame a f qs s)
  /-- The front entry of a queue becomes a claim (R65). -/
  | claim {s : State} {a : AgentId} {q : QueueId} {e : EntryId}
      (active : (s.agent a).state ≠ .offline) (front : (s.queue q).front = some e) :
      Move s (claimEntry a q e s)
  /-- A claim ends and its entry joins a queue: its home queue again (R87), or one from which no entry refers
  to its frame (R89). -/
  | requeue {s u : State} {a : AgentId} {e : EntryId} {x : Entry} {y : Queue} (claimed : Claimed s a e)
      (ended : Quiet (endClaim a e s) u) (place : x.place = .queued) (claimant : x.claimant = none)
      (frame : x.frame = (u.entry e).frame)
      (home : x.home = (u.entry e).home ∨ refersFrom u x.home x.frame = false)
      (joined : y = (u.queue x.home).pushFront x.cls e ∨ y = (u.queue x.home).pushTail x.cls e) :
      Move s ((u.setEntry e x).setQueue x.home y)
  /-- An entry is freed and its reference dropped (R71, R90, R102). -/
  | drop {s u v : State} {e : EntryId} (off : TakenOff s u e) (freed : Quiet (freeEntry e u) v) :
      Move s (dropReference (u.entry e).frame v)
  /-- A claim becomes a hold (R72). -/
  | take {s u : State} {a : AgentId} {e : EntryId} (active : (s.agent a).state ≠ .offline)
      (claimed : e ∈ (s.agent a).claims) (refs : (s.frame (s.entry e).frame).refs = 1)
      (freed : u = freeEntry e (endClaim a e s)) :
      Move s
        (joinHeld a (s.entry e).frame
          (u.setFrame (s.entry e).frame
            { u.frame (s.entry e).frame with state := .held, holder := some a }))
  /-- The front frame of the scrub list becomes FREE (R17). -/
  | scrub {s : State} {f : FrameIdx} {rest : List FrameIdx} (front : s.scrubList = f :: rest) :
      Move s (joinFreeList f { s with scrubList := rest })
  /-- A pool is defined in CONFIG (R154). -/
  | define {s : State} {p : PoolId} {x : Pool} (config : s.controller = .config) : Move s (s.setPool p x)
  /-- FORMAT accepts the definitions (R155). -/
  | format {s : State} (config : s.controller = .config) (valid : formatFailure s = none) :
      Move s { s with controller := .formatting, built := 0 }
  /-- The build enters the next frame (R156). -/
  | build {s : State} {f : FrameIdx} (formatting : s.controller = .formatting) (next : f.val = s.built)
      (more : s.built < frameTotal s) :
      Move s (enterFrame f s)
  /-- The build ends (R158). -/
  | formatted {s : State} (formatting : s.controller = .formatting) (all : frameTotal s ≤ s.built) :
      Move s { s with activeTotal := frameTotal s, controller := .running }
  /-- Initialisation ends (R150). -/
  | initialised {s : State} (init : s.controller = .init) : Move s { s with controller := .config }
  /-- RESTART and PORST# leave no frame and no entry in use (R150, R159). -/
  | empty {s t : State} (empty : Emptied t) (mem : t.mem = s.mem) : Move s t

/-- A chain of moves. -/
def Moves : State → State → Prop := Relation.ReflTransGen Move

theorem Moves.refl (s : State) : Moves s s := Relation.ReflTransGen.refl

theorem Moves.trans {s t u : State} (h : Moves s t) (k : Moves t u) : Moves s u :=
  Relation.ReflTransGen.trans h k

theorem Move.moves {s t : State} (h : Move s t) : Moves s t := Relation.ReflTransGen.single h

theorem Quiet.moves {s t : State} (h : Quiet s t) : Moves s t := (Move.quiet h).moves

/-- A chain of moves and a quiet change at its end. -/
theorem Moves.quiet {s t u : State} (k : Quiet t u) (h : Moves s t) : Moves s u := h.trans k.moves

/-- A law that every move keeps is kept by a chain of moves. -/
theorem Moves.keeps {P : State → Prop} (h : ∀ s t, Move s t → P s → P t) {s t : State} (m : Moves s t)
    (hs : P s) : P t := by
  induction m with
  | refl => exact hs
  | tail _ m ih => exact h _ _ m ih

/-! ## What passed checks establish -/

theorem firstRefusal_eq_none_iff {β : Type} (l : List (Option β)) :
    firstRefusal l = none ↔ ∀ o ∈ l, o = none := by
  induction l with
  | nil => simp
  | cons o l ih => simp [firstRefusal_cons, Option.or_eq_none_iff, ih]

theorem refuseIf_eq_none_iff {β : Type} (b : Bool) (r : β) : refuseIf b r = none ↔ b = false := by
  cases b <;> simp [refuseIf]

theorem online_of_prefix {s : State} {a : AgentId} (h : commonPrefix s a = none) :
    (s.agent a).state = .online := by
  simp only [commonPrefix, firstRefusal_eq_none_iff, List.forall_mem_cons, refuseIf_eq_none_iff] at h
  obtain ⟨-, ho, hr, -⟩ := h
  cases hs : (s.agent a).state <;> simp_all

theorem active_of_prefix {s : State} {a : AgentId} (h : commonPrefix s a = none) :
    (s.agent a).state ≠ .offline := by simp [online_of_prefix h]

theorem holds_of_holdRefusal {s : State} {a : AgentId} {h : Word} (c : holdRefusal s a h = none) :
    holds s a (handleIndex h) = true := by
  simp only [holdRefusal, firstRefusal_eq_none_iff, List.forall_mem_cons, refuseIf_eq_none_iff] at c
  simpa using c.2.2.1

theorem prefix_of_claimRefusal {s : State} {a : AgentId} {h : Word} (c : claimRefusal s a h = none) :
    commonPrefix s a = none := by
  simp only [claimRefusal, firstRefusal_eq_none_iff, List.forall_mem_cons] at c
  exact c.1

theorem mem_of_claimsOn {s : State} {a : AgentId} {f : FrameIdx} {e : EntryId} {l : List EntryId}
    (h : claimsOn s a f = e :: l) : e ∈ (s.agent a).claims ∧ (s.entry e).frame = f := by
  have : e ∈ claimsOn s a f := h ▸ List.mem_cons_self
  simpa [claimsOn] using this

/-- The destinations of a post are some queues, each once (R57). -/
theorem stagedQueues_spec {s : State} {a : AgentId} {qs : List QueueId} (h : stagedQueues s a = some qs) :
    qs ≠ [] ∧ qs.Nodup := by
  unfold stagedQueues at h
  dsimp only at h
  split at h
  · cases h; simp
  · split at h
    · split at h
      · cases h
      · rename_i hne
        cases h
        exact ⟨by simpa using hne, (List.nodup_finRange 32).filter _⟩
    · cases h

/-! ## The commands of the ports -/

/-- An access is a chain of moves when its run is, and what it leaves in INIT is quiet. -/
theorem takeAccess_moves {p : Port} {c : HeldAccess} {inInit : State → State} {run : State → Out}
    {s t : State} (h : takeAccess p c inInit run s = .next t) (init : Quiet s (inInit s))
    (runs : PortTakes s p → run s = .next t → Moves s t) : Moves s t := by
  rcases takeAccess_cases h with ⟨-, e⟩ | ⟨-, -, e⟩ | ⟨takes, e⟩
  · cases e; exact (Quiet.setHeldAccesses ..).moves
  · cases e; exact init.moves
  · exact runs takes e.symm

theorem readAccess_moves {p : Port} {c : Instr} {run : State → State} {s t : State}
    (h : readAccess p c run s = .next t) (runs : PortTakes s p → Moves s (run s)) : Moves s t :=
  takeAccess_moves h (.returns ..) fun takes e => by cases e; exact runs takes

theorem writeAccess_moves {p : Port} {c : Instr} {run : State → State} {s t : State}
    (h : writeAccess p c run s = .next t) (runs : PortTakes s p → Moves s (run s)) : Moves s t :=
  takeAccess_moves h (.refl s) fun takes e => by cases e; exact runs takes

/-! ### Frames -/

theorem execAlloc_moves {a : AgentId} {p : PoolId} {s t : State} (h : execAlloc a p s = .next t) :
    Moves s t := by
  refine readAccess_moves h fun _ => ?_
  split
  · rename_i f rest refusal front
    simp only [allocRefusal, firstRefusal_eq_none_iff, List.forall_mem_cons] at refusal
    have move : Move s _ := .alloc (active_of_prefix refusal.1) front
    exact .quiet (.returns ..) (.quiet (.answer ..) (.quiet (.lowWaterTest ..) move.moves))
  · exact ((Quiet.answer ..).trans (.returns ..)).moves

theorem execFree_moves {a : AgentId} {w : Word} {s t : State} (h : execFree a w s = .next t) :
    Moves s t := by
  refine writeAccess_moves h fun _ => ?_
  split
  · exact (Quiet.answer ..).moves
  · rename_i refusal
    have move : Move s _ := .giveBack (.inr (holds_of_holdRefusal refusal))
    exact .quiet (.answer ..) (.quiet (.unbind ..) move.moves)

/-! ### Posting -/

theorem postWrite_moves (a : AgentId) (h : Word) (s : State) : Moves s (postWrite a h s) := by
  unfold postWrite
  split
  · exact (Quiet.answer ..).moves
  · rename_i refusal
    simp only [postRefusal, firstRefusal_eq_none_iff, List.forall_mem_cons, refuseIf_eq_none_iff,
      withHandle, Option.map_eq_none_iff] at refusal
    obtain ⟨held, -, staged, -, room, -⟩ := refusal
    obtain ⟨qs, hq⟩ := Option.isSome_iff_exists.mp (by simpa using staged)
    rw [hq, Option.getD_some, decide_eq_false_iff_not, not_lt] at room
    rw [hq, Option.getD_some]
    obtain ⟨some, once⟩ := stagedQueues_spec hq
    exact .quiet (.answer ..) (Move.post (holds_of_holdRefusal held) some once room).moves

theorem execReply_moves {a : AgentId} {w : Word} {s t : State} (h : execReply a w s = .next t) :
    Moves s t := by
  refine writeAccess_moves h fun _ => ?_
  dsimp only
  split
  · exact (Quiet.answer ..).moves
  · rename_i refusal
    simp only [replyRefusal, firstRefusal_eq_none_iff, List.forall_mem_cons, refuseIf_eq_none_iff,
      withHandle, Option.map_eq_none_iff] at refusal
    obtain ⟨held, -, -, -, room, -⟩ := refusal
    rw [List.isEmpty_eq_false_iff] at room
    exact .quiet (.answer ..) (Move.post (holds_of_holdRefusal held) (by simp) (List.nodup_singleton _)
      (List.length_pos_iff.mpr room)).moves

/-! ### Receiving -/

theorem acceptReceive_moves {a : AgentId} {q : QueueId} {e : EntryId} {k : Action} {s : State}
    (active : (s.agent a).state ≠ .offline) (front : (s.queue q).front = some e) :
    Moves s (acceptReceive a q e k s) :=
  .quiet (.returns ..) (.quiet (.answer ..) (Move.claim active front).moves)

theorem refuseReceive_moves (a : AgentId) (c : ResultCode) (k : Action) (w : Word) (s : State) :
    Moves s (refuseReceive a c k w s) := ((Quiet.answer ..).trans (.returns ..)).moves

theorem execReceive_moves {a : AgentId} {q : QueueId} {s t : State} (h : execReceive a q s = .next t) :
    Moves s t := by
  refine readAccess_moves h fun _ => ?_
  split
  · rename_i refusal front
    simp only [receiveRefusal, firstRefusal_eq_none_iff, List.forall_mem_cons] at refusal
    exact acceptReceive_moves (active_of_prefix refusal.1) front
  · exact refuseReceive_moves ..

theorem execReceiveAny_moves {a : AgentId} {s t : State} (h : execReceiveAny a s = .next t) :
    Moves s t := by
  refine readAccess_moves h fun _ => ?_
  split
  · rename_i q refusal _
    simp only [receiveAnyRefusal, firstRefusal_eq_none_iff, List.forall_mem_cons] at refusal
    split
    · rename_i e front
      have pointed : Quiet s (s.setAgent a { s.agent a with rotation := q }) := .agentFields rfl rfl rfl
      refine pointed.moves.trans (acceptReceive_moves ?_ front)
      rw [State.setAgent_agent_self]
      exact active_of_prefix refusal.1
    · exact refuseReceive_moves ..
  · exact refuseReceive_moves ..

/-! ### The ends of a claim -/

/-- The end of a claim takes claimant and deadline from the entry (R70). -/
theorem endClaim_entry (a : AgentId) (e d : EntryId) (s : State) : (endClaim a e s).entry d =
    if d = e then { s.entry e with claimant := none, deadline := none } else s.entry d := by
  rw [endClaim_eq]; exact Table.get_set ..

theorem returnEntry_moves {s u : State} {a : AgentId} {e : EntryId} (claimed : Claimed s a e)
    (ended : Quiet (endClaim a e s) u) (n : Nat) : Moves s (returnEntry e n u) := by
  have claimant : (u.entry e).claimant = none := by rw [ended.entry e, endClaim_entry, if_pos rfl]
  exact (Move.requeue (x := { u.entry e with place := .queued, redeliveries := n }) claimed ended rfl
    claimant rfl (.inl rfl) (.inl rfl)).moves

theorem moveEntry_moves {s u : State} {a : AgentId} {e : EntryId} {d : QueueId} (claimed : Claimed s a e)
    (ended : Quiet (endClaim a e s) u) (target : moveTarget u e = some d) :
    Moves s (moveEntry e d u) := by
  have claimant : (u.entry e).claimant = none := by rw [ended.entry e, endClaim_entry, if_pos rfl]
  have alone : refersFrom u d (u.entry e).frame = false := by
    unfold moveTarget at target
    split at target
    · cases target
    · split at target
      · rename_i c; cases target; exact c.2.2.2
      · cases target
  have move := Move.requeue
    (x := { u.entry e with place := .queued, home := d, cls := .normal, redeliveries := 0 }) claimed ended
    rfl claimant rfl (.inr alone) (.inr rfl)
  exact .quiet (.drainCompletion ..) (.quiet (.offerNotice ..) move.moves)

theorem dropIntoFlush_moves {s u : State} {e : EntryId} (off : TakenOff s u e) :
    Moves s (dropIntoFlush e u) := by
  have move : Move s (dropIntoFlush e u) := .drop off (.setQueue rfl rfl)
  exact move.moves

theorem dropWithNotice_moves {s u : State} {e : EntryId} (off : TakenOff s u e) :
    Moves s (dropWithNotice e u) := by
  refine .quiet (.drainCompletion ..) (.quiet (.offerNotice ..) (Move.moves (.drop off ?_)))
  exact .setQueue rfl rfl

/-- Whatever the redelivery path does with an entry whose claim has ended (R86). -/
theorem redeliver_moves {s u : State} {a : AgentId} {e : EntryId} (claimed : Claimed s a e)
    (ended : Quiet (endClaim a e s) u) (r : ReturnReason) : Moves s (redeliver e r u) := by
  have dead : Moves s (deadLetterPath e u) := by
    unfold deadLetterPath
    split
    · exact moveEntry_moves claimed ended ‹_›
    · exact dropWithNotice_moves (.claim a claimed ended)
  unfold redeliver
  split
  · exact dropIntoFlush_moves (.claim a claimed ended)
  · exact dropWithNotice_moves (.claim a claimed ended)
  · exact dropWithNotice_moves (.claim a claimed ended)
  all_goals
    split
    · exact returnEntry_moves claimed ended _
    all_goals
      split
      · exact returnEntry_moves claimed ended _
      · exact dead

theorem execComplete_moves {a : AgentId} {w : Word} {s t : State} (h : execComplete a w s = .next t) :
    Moves s t := by
  refine writeAccess_moves h fun _ => ?_
  split
  · rename_i e rest refusal claims
    have move := Move.drop (.claim a (.inl (mem_of_claimsOn claims).1) (.refl _)) (.refl _)
    rw [endClaim_entry, if_pos rfl] at move
    exact .quiet (.answer ..) (.quiet (.drainCompletion ..) (.quiet (.unbindWithoutClaim ..) move.moves))
  · exact (Quiet.answer ..).moves

theorem execTake_moves {a : AgentId} {w : Word} {s t : State} (h : execTake a w s = .next t) :
    Moves s t := by
  refine writeAccess_moves h fun _ => ?_
  split
  · rename_i e rest refusal claims
    simp only [takeRefusal, firstRefusal_eq_none_iff, List.forall_mem_cons, refuseIf_eq_none_iff]
      at refusal
    obtain ⟨mem, frame⟩ := mem_of_claimsOn claims
    have move := Move.take (active_of_prefix (prefix_of_claimRefusal refusal.1)) mem
      (by simpa [frame] using refusal.2.1) rfl
    exact .quiet (.answer ..) (.quiet (.drainCompletion ..) move.moves)
  · exact (Quiet.answer ..).moves

theorem execRelease_moves {a : AgentId} {w : Word} {s t : State} (h : execRelease a w s = .next t) :
    Moves s t := by
  refine writeAccess_moves h fun _ => ?_
  split
  · rename_i e rest _ claims
    exact .quiet (.answer ..)
      (redeliver_moves (.inl (mem_of_claimsOn claims).1) (.unbindWithoutClaim ..) _)
  · exact (Quiet.answer ..).moves

theorem execClaimExpiry_moves {s t : State} (h : execClaimExpiry s = .next t) : Moves s t := by
  unfold execClaimExpiry at h
  split at h
  · cases h; exact .refl s
  · rename_i e rest front
    split at h
    · rename_i a claimant
      cases h
      have claimed : Claimed s a e := .inr ⟨front ▸ List.mem_cons_self, claimant⟩
      refine redeliver_moves (u := offerNotice a _ _) claimed ?_ .expired
      exact .after (.offerNotice ..) (.unbindWithoutClaim ..)
    · cases h; exact (Quiet.leaveDeadlines ..).moves

end Sys2Proof.Machine

end

section

-- Taken one after the other, the proofs need one thread (see Tests/Slice0.lean).
set_option Elab.async false

namespace Sys2Proof.Machine

/-! ### Agents -/

theorem execAttach_moves {a : AgentId} {s t : State} (h : execAttach a s = .next t) : Moves s t := by
  refine writeAccess_moves h fun _ => ?_
  split
  · exact (Quiet.answer ..).moves
  · rename_i refusal
    simp only [attachRefusal, firstRefusal_eq_none_iff, List.forall_mem_cons, refuseIf_eq_none_iff]
      at refusal
    obtain ⟨-, online, retiring, -⟩ := refusal
    have offline : (s.agent a).state = .offline := by
      cases hs : (s.agent a).state <;> simp_all
    exact .quiet (.answer ..) (Move.attach offline).moves

theorem execDetach_moves {a : AgentId} {s t : State} (h : execDetach a s = .next t) : Moves s t := by
  refine writeAccess_moves h fun _ => ?_
  split
  · exact (Quiet.answer ..).moves
  · exact .quiet (.answer ..) (Quiet.beginRetire ..).moves

theorem execRetire_moves {a : AgentId} {s t : State} (h : execRetire a s = .next t) : Moves s t := by
  refine writeAccess_moves h fun _ => ?_
  split
  · exact .quiet (.controlAnswer ..) (Quiet.beginRetire ..).moves
  · exact (Quiet.controlAnswer ..).moves

theorem execRetireClaimStep_moves {a : AgentId} {s t : State} (h : execRetireClaimStep a s = .next t) :
    Moves s t := by
  unfold execRetireClaimStep at h
  split at h
  · split at h
    · rename_i e last
      cases h
      have claimed : Claimed s a e := .inl (List.mem_of_getLast? last)
      refine .quiet ?_ (redeliver_moves claimed (.refl _) .retired)
      apply Quiet.agentFields <;> split <;> rfl
    · cases h; exact .refl s
  · cases h; exact .refl s

theorem execRetireFreeStep_moves {a : AgentId} {s t : State} (h : execRetireFreeStep a s = .next t) :
    Moves s t := by
  unfold execRetireFreeStep at h
  split at h
  · rename_i c
    split at h
    · rename_i f rest held
      cases h
      have move : Move s (giveBack a f s) := .giveBack (.inl (held ▸ List.mem_cons_self))
      exact .quiet (.agentFields rfl rfl rfl) move.moves
    · rename_i held
      cases h
      exact .quiet (.offerEvent ..) (Quiet.setAgent held.symm c.2.symm fun _ => .inr ⟨held, c.2⟩).moves
  · cases h; exact .refl s

theorem execUnknownAgentCommand_moves {a : AgentId} {code : Byte} {s t : State}
    (h : execUnknownAgentCommand a code s = .next t) : Moves s t := by
  unfold execUnknownAgentCommand at h
  split at h
  · exact writeAccess_moves h fun _ => (Quiet.answer ..).moves
  · cases h

theorem stagingWrite_moves (a : AgentId) (change : Staging → Staging) (s : State) :
    Moves s (stagingWrite a change s) := by
  unfold stagingWrite
  dsimp only
  split
  · exact Quiet.moves (.agentFields rfl rfl rfl)
  · exact .refl s

theorem execInterruptEnable_moves {a : AgentId} {w : Word} {s t : State}
    (h : execInterruptEnable a w s = .next t) : Moves s t := by
  refine writeAccess_moves h fun _ => ?_
  dsimp only
  split
  · exact Quiet.moves (.agentFields rfl rfl rfl)
  · exact .refl s

theorem execNotice_moves {a : AgentId} {s t : State} (h : execNotice a s = .next t) : Moves s t := by
  refine readAccess_moves h fun _ => ?_
  dsimp only
  split
  · split
    · exact .quiet (.returns ..) (Quiet.moves (.agentFields rfl rfl rfl))
    · exact .quiet (.returns ..) (Quiet.moves (.agentFields rfl rfl rfl))
  · exact (Quiet.returns ..).moves

/-! ### The aperture -/

theorem execBindWrite_moves {a : AgentId} {w : Word} {s t : State} (h : execBindWrite a w s = .next t) :
    Moves s t := by
  refine writeAccess_moves h fun _ => ?_
  dsimp only
  split
  · exact (Quiet.answer ..).moves
  · exact .quiet (.answer ..) (Quiet.moves (.agentFields rfl rfl rfl))

theorem execBindRead_moves {a : AgentId} {s t : State} (h : execBindRead a s = .next t) : Moves s t := by
  refine readAccess_moves h fun _ => ?_
  split
  · exact .quiet (.returns ..) (Quiet.answer ..).moves
  · exact .quiet (.returns ..) (Quiet.answer ..).moves

theorem execApertureRead_moves {a : AgentId} {m : BitVec 9} {lanes : BitVec 4} {s t : State}
    (h : execApertureRead a m lanes s = .next t) : Moves s t := by
  refine takeAccess_moves h (.returns ..) fun _ h => ?_
  dsimp only at h
  split at h
  · cases h; exact .quiet (.returns ..) (Quiet.answer ..).moves
  · split at h
    · cases h; exact (Quiet.returns ..).moves
    · cases h

theorem execApertureWrite_moves {a : AgentId} {m : BitVec 9} {lanes : BitVec 4} {w : Word} {s t : State}
    (h : execApertureWrite a m lanes w s = .next t) : Moves s t := by
  refine takeAccess_moves h (.refl s) fun _ h => ?_
  dsimp only at h
  split at h
  · cases h; exact (Quiet.answer ..).moves
  · split at h
    · rename_i inside
      cases h
      exact (Move.memory fun wf => Memory.wf_writeLanes s.mem _ lanes w wf inside).moves
    · cases h

/-! ### The control page -/

/-- A configuration write is the change of its register, or nothing but the result record. -/
theorem configure_moves {offset n : Nat} {refusal : Option ControlCode} {change : Option State}
    {s : State} (h : refusal = none → ∀ t ∈ change, Moves s t) :
    Moves s (configure offset n refusal change s) := by
  unfold configure
  dsimp only
  split
  · exact (Quiet.controlAnswer ..).moves
  · exact (Quiet.controlAnswer ..).moves
  · exact .quiet (.controlAnswer ..) (h rfl _ rfl)

theorem execUnknownControlCommand_moves {w : Word} {s t : State}
    (h : execUnknownControlCommand w s = .next t) : Moves s t := by
  unfold execUnknownControlCommand at h
  split at h
  · refine writeAccess_moves h fun _ => ?_
    split <;> exact (Quiet.controlAnswer ..).moves
  · cases h

theorem execSupervisorEvent_moves {s t : State} (h : execSupervisorEvent s = .next t) : Moves s t := by
  refine readAccess_moves h fun _ => ?_
  split
  · exact .quiet (.returns ..) (Quiet.of_records).moves
  · exact .quiet (.returns ..) (Quiet.of_records).moves

theorem execPoolDefinition_moves {p : PoolId} {w : Word} {s t : State}
    (h : execPoolDefinition p w s = .next t) : Moves s t := by
  refine writeAccess_moves h fun takes => configure_moves fun refusal u hu => ?_
  simp only [firstRefusal_eq_none_iff, List.forall_mem_cons, refuseIf_eq_none_iff] at refusal
  obtain ⟨x, -, rfl⟩ := Option.map_eq_some_iff.mp hu
  have config : s.controller = .config := by
    have := takes.2
    cases hc : s.controller <;> simp_all
  exact (Move.define config).moves

theorem queueOfWord_lists {x y : Queue} {half : Half} {w : Word} (h : queueOfWord x half w = some y) :
    y.urgent = x.urgent ∧ y.normal = x.normal := by
  cases half
  all_goals
    simp only [queueOfWord] at h
    split at h
    · cases h; exact ⟨rfl, rfl⟩
    · cases h

theorem agentOfWord_kept {x y : Agent} {w : Word} (h : agentOfWord x w = some y) :
    y.held = x.held ∧ y.claims = x.claims ∧ y.state = x.state := by
  simp only [agentOfWord] at h
  split at h
  · cases h; exact ⟨rfl, rfl, rfl⟩
  · cases h

theorem execQueueConfiguration_moves {q : QueueId} {half : Half} {w : Word} {s t : State}
    (h : execQueueConfiguration q half w s = .next t) : Moves s t := by
  refine writeAccess_moves h fun _ => configure_moves fun _ u hu => ?_
  obtain ⟨x, hx, rfl⟩ := Option.map_eq_some_iff.mp hu
  obtain ⟨urgent, normal⟩ := queueOfWord_lists hx
  exact (Quiet.setQueue urgent normal).moves

theorem execAgentConfiguration_moves {a : AgentId} {w : Word} {s t : State}
    (h : execAgentConfiguration a w s = .next t) : Moves s t := by
  refine writeAccess_moves h fun _ => configure_moves fun _ u hu => ?_
  obtain ⟨x, hx, rfl⟩ := Option.map_eq_some_iff.mp hu
  obtain ⟨held, claims, state⟩ := agentOfWord_kept hx
  exact (Quiet.agentFields held claims state).moves

theorem execGroupMemberSet_moves {g : GroupId} {w : Word} {s t : State}
    (h : execGroupMemberSet g w s = .next t) : Moves s t := by
  refine writeAccess_moves h fun _ => configure_moves fun _ u hu => ?_
  cases hu; exact (Quiet.of_records).moves

theorem execDeadLetterSelection_moves {w : Word} {s t : State}
    (h : execDeadLetterSelection w s = .next t) : Moves s t := by
  refine writeAccess_moves h fun _ => configure_moves fun _ u hu => ?_
  obtain ⟨x, -, rfl⟩ := Option.map_eq_some_iff.mp hu
  exact (Quiet.of_records).moves

theorem execTimebasePrescaler_moves {w : Word} {s t : State}
    (h : execTimebasePrescaler w s = .next t) : Moves s t := by
  refine writeAccess_moves h fun _ => configure_moves fun _ u hu => ?_
  obtain ⟨x, -, rfl⟩ := Option.map_eq_some_iff.mp hu
  exact (Quiet.of_records).moves

theorem execSupervisorInterruptEnable_moves {w : Word} {s t : State}
    (h : execSupervisorInterruptEnable w s = .next t) : Moves s t := by
  refine writeAccess_moves h fun _ => configure_moves fun _ u hu => ?_
  obtain ⟨x, -, rfl⟩ := Option.map_eq_some_iff.mp hu
  exact (Quiet.of_records).moves

/-! ### The controller -/

theorem execFormat_moves {s t : State} (h : execFormat s = .next t) : Moves s t := by
  refine writeAccess_moves h fun takes => ?_
  split
  · exact (Quiet.controlAnswer ..).moves
  · exact (Quiet.controlAnswer ..).moves
  · rename_i config
    split
    · exact (Quiet.controlAnswer ..).moves
    · exact .quiet (.controlAnswer ..) (Move.format config ‹_›).moves
  · exact absurd ‹_› takes.2

theorem execFormatBuildStep_moves {s t : State} (h : execFormatBuildStep s = .next t) : Moves s t := by
  unfold execFormatBuildStep at h
  split at h
  · rename_i c
    obtain ⟨formatting, more, low⟩ := c
    cases h
    let f : FrameIdx := ⟨s.built, low⟩
    rcases buildFrame_cases f s with e | ⟨base, size, e⟩
    · rw [e]; exact (Move.build formatting rfl more).moves
    · have cleared : Move s { s with mem := s.mem.clear base size } :=
        .memory fun wf => Memory.wf_clear _ _ _ wf
      rw [e]
      exact cleared.moves.trans (Move.moves (.build formatting rfl more))
  · cases h; exact .refl s

theorem execFormatCompletion_moves {s t : State} (h : execFormatCompletion s = .next t) :
    Moves s t := by
  unfold execFormatCompletion at h
  split at h
  · rename_i c
    cases h
    let u : State := { s with activeTotal := frameTotal s, controller := .running }
    have armed : Quiet u { u with pools := s.pools.map fun x => { x with armed := true } } :=
      { Quiet.refl u with
        layout := fun p => by
          have h : State.pool { u with pools := s.pools.map fun x => { x with armed := true } } p =
              { s.pool p with armed := true } := Table.get_map ..
          rw [h]
          exact ⟨rfl, rfl⟩ }
    exact .quiet (.offerEvent ..) (.quiet armed (Move.formatted c.1 c.2).moves)
  · cases h; exact .refl s

theorem execScrubCompletion_moves {s t : State} (h : execScrubCompletion s = .next t) : Moves s t := by
  unfold execScrubCompletion at h
  split at h
  · rename_i f rest _ front
    cases h
    have cleared : Move s { s with mem := s.mem.clear (frameBase s f) (sizeOfFrame s f) } :=
      .memory fun wf => Memory.wf_clear _ _ _ wf
    obtain rfl : rest = s.scrubList.tail := by rw [front]; rfl
    exact .quiet (.reArmTest ..) (cleared.moves.trans (Move.moves (.scrub front)))
  · cases h; exact .refl s

/-- RESTART leaves no frame and no entry in use (R159). -/
theorem restartState_emptied (s : State) : Emptied (restartState s) where
  controller := .inr rfl
  built := rfl
  frame f := by
    have h : (restartState s).frame f = Frame.absent (s.frame f).generation := Table.get_map ..
    rw [h]
    exact ⟨rfl, rfl, rfl⟩
  freeList p := Table.get_fill ..
  scrubList := rfl
  entry e := by
    have h : (restartState s).entry e = (s.entry e).restarted := Table.get_map ..
    rw [h]
    exact ⟨rfl, rfl⟩
  freeEntries := by simp only [restartState]
  queue q := by
    have h : (restartState s).queue q = (s.queue q).restarted := Table.get_map ..
    rw [h]
    exact ⟨rfl, rfl⟩
  agent a := by
    have h : (restartState s).agent a = (s.agent a).restarted := Table.get_map ..
    rw [h]
    exact ⟨rfl, rfl⟩
  deadlines := rfl
  handedOver := rfl

theorem abandonedScrub_wf {s : State} (wf : s.mem.wf) : (abandonedScrub s).wf := by
  unfold abandonedScrub
  split
  · exact Memory.wf_clearWhere _ _ _ _ wf
  · exact wf

theorem execRestart_moves {s t : State} (h : execRestart s = .next t) : Moves s t := by
  refine writeAccess_moves h fun _ => .quiet (.controlAnswer ..) ?_
  have abandoned : Move s { s with mem := abandonedScrub s } := .memory abandonedScrub_wf
  exact abandoned.moves.trans (Move.moves (.empty (restartState_emptied s) rfl))

/-- No frame and no entry is in use after power-on reset. -/
theorem reset_emptied : Emptied State.reset where
  controller := .inr rfl
  built := rfl
  frame f := by
    have h : State.reset.frame f = Frame.absent 0 := Table.get_fill ..
    rw [h]
    exact ⟨rfl, rfl, rfl⟩
  freeList p := Table.get_fill ..
  scrubList := rfl
  entry e := by
    have h : State.reset.entry e = Entry.reset := Table.get_fill ..
    rw [h]
    exact ⟨rfl, rfl⟩
  freeEntries := by simp only [State.reset]
  queue q := by
    have h : State.reset.queue q = Queue.reset := Table.get_fill ..
    rw [h]
    exact ⟨rfl, rfl⟩
  agent a := by
    have h : State.reset.agent a = Agent.reset := Table.get_fill ..
    rw [h]
    exact ⟨rfl, rfl⟩
  deadlines := rfl
  handedOver := rfl

theorem execPorstAssert_moves {s t : State} (h : execPorstAssert s = .next t) : Moves s t := by
  cases h
  refine Move.moves (.empty ?_ rfl)
  exact { reset_emptied with controller := .inl rfl, freeEntries := by simp only [State.reset] }

theorem execInitialisationEnd_moves {s t : State} (h : execInitialisationEnd s = .next t) :
    Moves s t := by
  unfold execInitialisationEnd at h
  split at h
  · rename_i c
    cases h
    have cleared : Move s { s with mem := [] } :=
      .memory fun _ => ⟨List.Pairwise.nil, fun _ h => nomatch h⟩
    exact cleared.moves.trans (Move.moves (.initialised c.1))
  · cases h; exact .refl s

/-! ### Queue commands -/

/-- A queue command is its transition, or nothing but the result record. -/
theorem queueCommand_moves {r : Requester} {q : QueueId} {k : Action} {code : Byte} {c : ResultCode}
    {transition : State → Option State} {s : State} (h : ∀ t ∈ transition s, Quiet s t) :
    Moves s (queueCommand r q k code c transition s) := by
  unfold queueCommand
  split
  · split
    · exact (Quiet.answer ..).moves
    · split
      · exact .quiet (.answer ..) (h _ ‹_›).moves
      · exact (Quiet.answer ..).moves
  · split
    · split
      · exact .quiet (.controlAnswer ..) (h _ ‹_›).moves
      · exact (Quiet.controlAnswer ..).moves
    · exact (Quiet.controlAnswer ..).moves

theorem openChange_quiet {q : QueueId} {s t : State} (h : t ∈ openChange q s) : Quiet s t := by
  unfold openChange at h
  split at h <;> cases h <;> exact .setQueue rfl rfl

theorem pauseChange_quiet {q : QueueId} {s t : State} (h : t ∈ pauseChange q s) : Quiet s t := by
  unfold pauseChange at h
  split at h <;> cases h; exact .setQueue rfl rfl

theorem resumeChange_quiet {q : QueueId} {s t : State} (h : t ∈ resumeChange q s) : Quiet s t := by
  unfold resumeChange at h
  split at h <;> cases h; exact .setQueue rfl rfl

theorem drainChange_quiet {r : Requester} {q : QueueId} {s t : State} (h : t ∈ drainChange r q s) :
    Quiet s t := by
  have closed : Quiet s (reportClosed (some r) q (s.setQueue q { s.queue q with state := .closed })) :=
    .after (.report ..) (.setQueue rfl rfl)
  have draining : Quiet s (s.setQueue q { s.queue q with state := .draining, requester := some r }) :=
    .setQueue rfl rfl
  unfold drainChange at h
  split at h <;> first | cases h | (split at h <;> cases h <;> assumption)

theorem flushChange_quiet {r : Requester} {q : QueueId} {s t : State} (h : t ∈ flushChange r q s) :
    Quiet s t := by
  unfold flushChange at h
  split at h <;> cases h <;> exact .setQueue rfl rfl

theorem disableChange_quiet {q : QueueId} {s t : State} (h : t ∈ disableChange q s) : Quiet s t := by
  unfold disableChange at h
  split at h
  · split at h <;> cases h; exact .setQueue rfl rfl
  all_goals cases h

theorem execClearDiscard_moves {q : QueueId} {s t : State} (h : execClearDiscard q s = .next t) :
    Moves s t :=
  writeAccess_moves h fun _ => .quiet (.controlAnswer ..) (Quiet.moves (.setQueue rfl rfl))

theorem execFlushStep_moves {q : QueueId} {s t : State} (h : execFlushStep q s = .next t) :
    Moves s t := by
  unfold execFlushStep at h
  split at h
  · split at h
    · rename_i e front
      cases h
      let x := (s.queue q).popFront
      have counted : Quiet (s.setQueue q x) (s.setQueue q { x with flushCount := x.flushCount + 1 }) := by
        have step : Quiet (s.setQueue q x)
            ((s.setQueue q x).setQueue q { x with flushCount := x.flushCount + 1 }) := by
          apply Quiet.setQueue <;> rw [State.setQueue_queue_self]
        simpa [State.setQueue] using step
      exact (Move.drop (.front q front counted) (.refl _)).moves
    · cases h
      exact .quiet (.report ..) (Quiet.moves (.setQueue rfl rfl))
  · cases h; exact .refl s

/-! ### Pins and held accesses -/

theorem execIgnoredWrite_moves {p : Port} {page : BitVec 4} {offset : BitVec 10} {w : Word} {s t : State}
    (h : execIgnoredWrite p page offset w s = .next t) : Moves s t := by
  unfold execIgnoredWrite at h
  split at h
  · exact writeAccess_moves h fun _ => .refl s
  · cases h

theorem retireForPort_quiet (s : State) (a : AgentId) : Quiet s (retireForPort s a) := by
  unfold retireForPort
  split
  · exact .beginRetire ..
  · exact .refl s

theorem execPortResetAssert_moves {p : Port} {s t : State} (h : execPortResetAssert p s = .next t) :
    Moves s t := by
  have retires (l : List AgentId) : ∀ u, Quiet u (l.foldl retireForPort u) := by
    induction l with
    | nil => exact .refl
    | cons a l ih => exact fun u => (retireForPort_quiet u a).trans (ih _)
  unfold execPortResetAssert at h
  split at h
  · cases h; exact .refl s
  · cases h; exact ((Quiet.setResetLine ..).trans (retires ..)).moves

/-- Every command but the release of a port's reset line, which takes other commands, is a chain of moves. -/
theorem exec_moves_of_not_release {c : Instr} (hc : ∀ p, c ≠ .portResetRelease p) {s t : State}
    (h : exec c s = .next t) : Moves s t := by
  cases c with
  | alloc a p => exact execAlloc_moves h
  | receive a q => exact execReceive_moves h
  | receiveAny a => exact execReceiveAny_moves h
  | post a w => exact writeAccess_moves h fun _ => postWrite_moves a w s
  | postToGroup a w => exact writeAccess_moves h fun _ => postWrite_moves a w s
  | reply a w => exact execReply_moves h
  | free a w => exact execFree_moves h
  | complete a w => exact execComplete_moves h
  | take a w => exact execTake_moves h
  | release a w => exact execRelease_moves h
  | bindWrite a w => exact execBindWrite_moves h
  | bindRead a => exact execBindRead_moves h
  | attach a => exact execAttach_moves h
  | detach a => exact execDetach_moves h
  | openQueue r q => exact writeAccess_moves h fun _ => queueCommand_moves fun _ => openChange_quiet
  | pause r q => exact writeAccess_moves h fun _ => queueCommand_moves fun _ => pauseChange_quiet
  | resume r q => exact writeAccess_moves h fun _ => queueCommand_moves fun _ => resumeChange_quiet
  | drain r q => exact writeAccess_moves h fun _ => queueCommand_moves fun _ => drainChange_quiet
  | flush r q => exact writeAccess_moves h fun _ => queueCommand_moves fun _ => flushChange_quiet
  | unknownAgentCommand a code => exact execUnknownAgentCommand_moves h
  | notice a => exact execNotice_moves h
  | stagingDestination a w => exact writeAccess_moves h fun _ => stagingWrite_moves ..
  | stagingAttributes a w => exact writeAccess_moves h fun _ => stagingWrite_moves ..
  | stagingLength a w => exact writeAccess_moves h fun _ => stagingWrite_moves ..
  | interruptEnable a w => exact execInterruptEnable_moves h
  | apertureRead a m lanes => exact execApertureRead_moves h
  | apertureWrite a m lanes w => exact execApertureWrite_moves h
  | format => exact execFormat_moves h
  | restart => exact execRestart_moves h
  | disable q => exact writeAccess_moves h fun _ => queueCommand_moves fun _ => disableChange_quiet
  | retire a => exact execRetire_moves h
  | clearDiscard q => exact execClearDiscard_moves h
  | unknownControlCommand w => exact execUnknownControlCommand_moves h
  | supervisorEvent => exact execSupervisorEvent_moves h
  | poolDefinition p w => exact execPoolDefinition_moves h
  | queueConfiguration q half w => exact execQueueConfiguration_moves h
  | agentConfiguration a w => exact execAgentConfiguration_moves h
  | groupMemberSet g w => exact execGroupMemberSet_moves h
  | deadLetterSelection w => exact execDeadLetterSelection_moves h
  | timebasePrescaler w => exact execTimebasePrescaler_moves h
  | supervisorInterruptEnable w => exact execSupervisorInterruptEnable_moves h
  | ignoredWrite p page offset w => exact execIgnoredWrite_moves h
  | porstAssert => exact execPorstAssert_moves h
  | porstRelease => cases h; exact (Quiet.of_records).moves
  | initialisationEnd => exact execInitialisationEnd_moves h
  | portResetAssert p => exact execPortResetAssert_moves h
  | portResetRelease p => exact absurd rfl (hc p)
  | tick =>
    cases h
    split
    · exact (Quiet.tickNow s).moves
    · exact .refl s
  | claimExpiry => exact execClaimExpiry_moves h
  | formatBuildStep => exact execFormatBuildStep_moves h
  | formatCompletion => exact execFormatCompletion_moves h
  | scrubCompletion => exact execScrubCompletion_moves h
  | flushStep q => exact execFlushStep_moves h
  | retireClaimStep a => exact execRetireClaimStep_moves h
  | retireFreeStep a => exact execRetireFreeStep_moves h

theorem takeHeld_moves {p : Port} {c : HeldAccess} {s t : State} (h : takeHeld p c s = .next t) :
    Moves s t := by
  cases c with
  | read x => cases h; exact (Quiet.plainRead ..).moves
  | command c =>
    by_cases access : (accessPort c).isSome = true
    · rw [takeHeld, takeCommand_eq_exec access] at h
      exact exec_moves_of_not_release (fun p hp => by simp [hp, accessPort] at access) h
    · cases c <;> first | exact absurd rfl access | (cases h; exact .refl s)

theorem takeHeldAll_moves {p : Port} : ∀ {l : List HeldAccess} {s t : State},
    takeHeldAll p l s = .next t → Moves s t
  | [], s, t, h => by cases h; exact .refl s
  | c :: l, s, t, h => by
    simp only [takeHeldAll] at h
    split at h
    · exact (takeHeld_moves ‹_›).trans (takeHeldAll_moves h)
    · cases h
    · cases h

theorem execPortResetRelease_moves {p : Port} {s t : State} (h : execPortResetRelease p s = .next t) :
    Moves s t :=
  ((Quiet.setResetLine ..).trans (.setHeldAccesses ..)).moves.trans (takeHeldAll_moves h)

/-- Every command is a chain of moves. -/
theorem exec_moves {c : Instr} {s t : State} (h : exec c s = .next t) : Moves s t := by
  by_cases hc : ∃ p, c = .portResetRelease p
  · obtain ⟨p, rfl⟩ := hc
    exact execPortResetRelease_moves h
  · exact exec_moves_of_not_release (fun p hp => hc ⟨p, hp⟩) h

/-- Every step is a chain of moves. -/
theorem step_moves {s t : State} (h : step s = .next t) : Moves s t := by
  unfold step at h
  split at h
  · exact (Quiet.of_records).moves.trans (exec_moves h)
  · cases h; exact (Quiet.clockPeriod s).moves

end Sys2Proof.Machine

end

section

-- Taken one after the other, the proofs need one thread (see Tests/Slice0.lean).
set_option Elab.async false

namespace Sys2Proof.Machine

/-! ## What traffic leaves unchanged -/

/-- Frame memory, the controller and the layout of the frame table are the same. -/
structure Traffic (s t : State) : Prop where
  mem : t.mem = s.mem
  controller : t.controller = s.controller
  activeTotal : t.activeTotal = s.activeTotal
  built : t.built = s.built
  layout : ∀ p, (t.pool p).count = (s.pool p).count ∧ (t.pool p).sizeCode = (s.pool p).sizeCode
  framePool : ∀ f, (t.frame f).pool = (s.frame f).pool

theorem Traffic.trans {s t u : State} (h : Traffic s t) (k : Traffic t u) : Traffic s u where
  mem := k.mem.trans h.mem
  controller := k.controller.trans h.controller
  activeTotal := k.activeTotal.trans h.activeTotal
  built := k.built.trans h.built
  layout p := ⟨(k.layout p).1.trans (h.layout p).1, (k.layout p).2.trans (h.layout p).2⟩
  framePool f := (k.framePool f).trans (h.framePool f)

/-- `Traffic.trans` with the last change first. -/
theorem Traffic.after {s t u : State} (k : Traffic t u) (h : Traffic s t) : Traffic s u := h.trans k

theorem Quiet.traffic {s t : State} (h : Quiet s t) : Traffic s t where
  mem := h.mem
  controller := h.controller
  activeTotal := h.activeTotal
  built := h.built
  layout := h.layout
  framePool f := by rw [State.frame, h.frames]; rfl

/-- An update that leaves the records of the controller, the pools and the frames. -/
theorem Traffic.of_records {s t : State} (mem : t.mem = s.mem := by rfl)
    (controller : t.controller = s.controller := by rfl)
    (activeTotal : t.activeTotal = s.activeTotal := by rfl) (built : t.built = s.built := by rfl)
    (pools : t.pools = s.pools := by rfl) (frames : t.frames = s.frames := by rfl) : Traffic s t where
  mem := mem
  controller := controller
  activeTotal := activeTotal
  built := built
  layout p := by rw [State.pool, pools]; exact ⟨rfl, rfl⟩
  framePool f := by rw [State.frame, frames]; rfl

theorem Traffic.setFrame {s : State} {f : FrameIdx} {x : Frame} (pool : x.pool = (s.frame f).pool) :
    Traffic s (s.setFrame f x) :=
  { (Traffic.of_records : Traffic s s) with
    framePool := fun g => by rw [State.setFrame_frame]; split <;> simp_all }

theorem Traffic.joinFreeList (f : FrameIdx) (s : State) : Traffic s (joinFreeList f s) := by
  have framed : Traffic s
      (s.setFrame f { s.frame f with state := .free, generation := (s.frame f).generation + 1 }) :=
    .setFrame rfl
  exact framed.trans .of_records

theorem Traffic.freePath (f : FrameIdx) (s : State) : Traffic s (freePath f s) := by
  unfold Machine.freePath
  dsimp only
  split
  · have framed : Traffic s (s.setFrame f { s.frame f with state := .scrub }) := .setFrame rfl
    exact framed.trans .of_records
  · exact (Traffic.joinFreeList f s).trans (Quiet.reArmTest ..).traffic

theorem Traffic.dropReference (f : FrameIdx) (s : State) : Traffic s (dropReference f s) := by
  rw [dropReference_eq]
  split
  · exact .after (.freePath ..) (.setFrame rfl)
  · exact .setFrame rfl

theorem Traffic.giveBack (a : AgentId) (f : FrameIdx) (s : State) : Traffic s (giveBack a f s) := by
  have left : Traffic s (leaveHeld a f s) := .of_records
  exact .after (.freePath ..) (.after (.setFrame rfl) left)

theorem Traffic.createEntry (f : FrameIdx) (urgent : Bool) (q : QueueId) (s : State) :
    Traffic s (createEntry f urgent q s) := by
  unfold Machine.createEntry
  split
  · exact .of_records
  · exact .of_records

theorem Traffic.createEntries (f : FrameIdx) (urgent : Bool) (qs : List QueueId) (s : State) :
    Traffic s (qs.foldl (fun s q => Machine.createEntry f urgent q s) s) := by
  induction qs generalizing s with
  | nil => exact .of_records
  | cons q qs ih => exact .after (ih _) (.createEntry f urgent q s)

theorem Traffic.postFrame (a : AgentId) (f : FrameIdx) (qs : List QueueId) (s : State) :
    Traffic s (postFrame a f qs s) := by
  have left (u : State) : Traffic u (leaveHeld a f u) := .of_records
  exact .after (Quiet.traffic (.unbind ..))
    (.after (left _) (.after (.createEntries ..) (.setFrame rfl)))

theorem Traffic.claimEntry (a : AgentId) (q : QueueId) (e : EntryId) (s : State) :
    Traffic s (claimEntry a q e s) := by
  rw [claimEntry_eq]; exact .of_records

theorem Traffic.endClaim (a : AgentId) (e : EntryId) (s : State) : Traffic s (endClaim a e s) := by
  rw [endClaim_eq]; exact .of_records

theorem Traffic.allocFrame (a : AgentId) (f : FrameIdx) (s : State) : Traffic s (allocFrame a f s) := by
  refine Traffic.trans (t := s.setFrame f _) (.setFrame ?_) .of_records
  rfl

theorem TakenOff.traffic {s u : State} {e : EntryId} (h : TakenOff s u e) : Traffic s u := by
  cases h with
  | claim a _ ended => exact (Traffic.endClaim a e s).trans ended.traffic
  | front q _ popped =>
    have pop : Traffic s (s.setQueue q (s.queue q).popFront) := .of_records
    exact pop.trans popped.traffic

/-! ## Frame memory -/

/-- Every move keeps frame memory in its canonical form. -/
theorem Move.keeps_memoryLaw {s t : State} (h : Move s t) (m : MemoryLaw s) : MemoryLaw t := by
  have same {u : State} (k : u.mem = s.mem) : MemoryLaw u := by
    rw [MemoryLaw, k]; exact m
  cases h with
  | quiet h => exact same h.mem
  | memory wf => exact wf m
  | attach => exact m
  | alloc => exact m
  | giveBack => exact same (Traffic.giveBack ..).mem
  | post => exact same (Traffic.postFrame ..).mem
  | claim => exact same (Traffic.claimEntry ..).mem
  | requeue _ ended => exact same (Eq.trans ended.mem (Traffic.endClaim ..).mem)
  | drop off freed =>
    exact same ((Traffic.dropReference ..).mem.trans (freed.mem.trans off.traffic.mem))
  | @take u a e _ _ _ freed =>
    have kept : u.mem = s.mem := freed ▸ (Traffic.endClaim a e s).mem
    exact same kept
  | scrub => exact m
  | define => exact m
  | format => exact m
  | build => exact m
  | formatted => exact m
  | initialised => exact m
  | empty _ mem => exact same mem

/-- Settles O50: of the moves of a step only one writes frame memory, and it keeps the form. -/
theorem everyStepKeepsMemoryLaw : Obligations.EveryStepKeepsMemoryLaw := fun _ _ m h =>
  (step_moves h).keeps (fun _ _ => Move.keeps_memoryLaw) m

/-! ## The frame table -/

theorem poolsBelow_first_congr {s t : State} (h : ∀ p, (t.pool p).count = (s.pool p).count)
    (p : PoolId) : poolFirst t p = poolFirst s p := by
  simp only [poolFirst, h]

theorem poolOfIndex_congr {s t : State} (h : ∀ p, (t.pool p).count = (s.pool p).count) (i : Nat) :
    poolOfIndex t i = poolOfIndex s i := by
  simp only [poolOfIndex, poolsBelow_first_congr h, h]

theorem frameTotal_congr {s t : State} (h : ∀ p, (t.pool p).count = (s.pool p).count) :
    frameTotal t = frameTotal s := by
  simp only [frameTotal, h]

theorem layoutBytes_congr {s t : State}
    (h : ∀ p, (t.pool p).count = (s.pool p).count ∧ (t.pool p).sizeCode = (s.pool p).sizeCode) :
    layoutBytes t = layoutBytes s := by
  have bytes (p : PoolId) : poolBytes t p = poolBytes s p := by
    simp only [poolBytes, (h p).1, (h p).2]
  simp only [layoutBytes, funext bytes]

/-- The frame table has the same extent, and what is in use in `t` was in use in `s` or is a frame of it. -/
structure WithinTable (s t : State) : Prop where
  built : t.built = s.built
  state : ∀ f : FrameIdx, (t.frame f).state ≠ .free → (s.frame f).state ≠ .free ∨ f.val < s.built
  free : ∀ p, ∀ f ∈ t.freeList p, f ∈ s.freeList p ∨ f.val < s.built
  scrub : ∀ f ∈ t.scrubList, f ∈ s.scrubList ∨ f.val < s.built
  held : ∀ a, ∀ f ∈ (t.agent a).held, f ∈ (s.agent a).held ∨ f.val < s.built
  entry : ∀ e, Listed t e → Listed s e ∧ (t.entry e).frame = (s.entry e).frame ∨
    (t.entry e).frame.val < s.built

/-- Traffic within the frame table keeps its law. -/
theorem FrameTableLaw.of_traffic {s t : State} (l : FrameTableLaw s) (h : Traffic s t)
    (w : WithinTable s t) : FrameTableLaw t where
  fits := by
    rw [h.controller, frameTotal_congr fun p => (h.layout p).1, layoutBytes_congr h.layout]
    exact l.fits
  progress := by
    rw [h.built, frameTotal_congr fun p => (h.layout p).1]
    exact l.progress
  empty := by
    rw [h.controller, h.built]
    exact l.empty
  complete := by
    rw [h.controller, h.built, h.activeTotal, frameTotal_congr fun p => (h.layout p).1]
    exact l.complete
  pools_match f hf := by
    rw [h.framePool, poolOfIndex_congr fun p => (h.layout p).1]
    exact l.pools_match f (h.built ▸ hf)
  in_table f hf := h.built ▸ (w.state f hf).elim (l.in_table f) id
  free_in_table p f hf := h.built ▸ (w.free p f hf).elim (l.free_in_table p f) id
  scrub_in_table f hf := h.built ▸ (w.scrub f hf).elim (l.scrub_in_table f) id
  held_in_table a f hf := h.built ▸ (w.held a f hf).elim (l.held_in_table a f) id
  entries_in_table e he := by
    rw [h.built]
    rcases w.entry e he with ⟨hs, frame⟩ | lt
    · rw [frame]; exact l.entries_in_table e hs
    · exact lt

theorem WithinTable.refl (s : State) : WithinTable s s where
  built := rfl
  state _ := .inl
  free _ _ := .inl
  scrub _ := .inl
  held _ _ := .inl
  entry _ h := .inl ⟨h, rfl⟩

theorem WithinTable.trans {s t u : State} (h : WithinTable s t) (k : WithinTable t u) :
    WithinTable s u where
  built := k.built.trans h.built
  state f hf := (k.state f hf).elim (h.state f) fun lt => .inr (h.built ▸ lt)
  free p f hf := (k.free p f hf).elim (h.free p f) fun lt => .inr (h.built ▸ lt)
  scrub f hf := (k.scrub f hf).elim (h.scrub f) fun lt => .inr (h.built ▸ lt)
  held a f hf := (k.held a f hf).elim (h.held a f) fun lt => .inr (h.built ▸ lt)
  entry e he := by
    rcases k.entry e he with ⟨ht, frame⟩ | lt
    · rw [frame]; exact h.entry e ht
    · exact .inr (h.built ▸ lt)

/-- `WithinTable.trans` with the last change first. -/
theorem WithinTable.after {s t u : State} (k : WithinTable t u) (h : WithinTable s t) :
    WithinTable s u := h.trans k

theorem Quiet.listed {s t : State} (h : Quiet s t) {e : EntryId} (l : Listed t e) : Listed s e := by
  unfold Listed at l ⊢
  simp only [h.urgent, h.normal, h.claims] at l
  rcases l with q | a | l
  · exact .inl q
  · exact .inr (.inl a)
  · exact .inr (.inr (h.timer e l))

theorem SameEntries.frame {s t : State} (h : SameEntries s t) (e : EntryId) :
    (t.entry e).frame = (s.entry e).frame := by rw [h.entry e]

theorem Quiet.withinTable {s t : State} (h : Quiet s t) : WithinTable s t where
  built := h.built
  state f hf := .inl (by rw [State.frame, h.frames] at hf; exact hf)
  free p f hf := .inl (by rw [State.freeList, h.freeLists] at hf; exact hf)
  scrub f hf := .inl (by rw [h.scrubList] at hf; exact hf)
  held a f hf := .inl (by rw [h.held] at hf; exact hf)
  entry e he := .inl ⟨h.listed he, h.frame e⟩

/-! ### The updates of one record -/

theorem WithinTable.setFrame {s : State} {f : FrameIdx} {x : Frame}
    (state : x.state ≠ .free → (s.frame f).state ≠ .free ∨ f.val < s.built) :
    WithinTable s (s.setFrame f x) :=
  { WithinTable.refl s with
    state := fun g hg => by
      rw [State.setFrame_frame] at hg
      split at hg
      · rename_i e; exact e ▸ state hg
      · exact .inl hg }

theorem WithinTable.setFreeList {s : State} {p : PoolId} {l : List FrameIdx}
    (free : ∀ f ∈ l, f ∈ s.freeList p ∨ f.val < s.built) : WithinTable s (s.setFreeList p l) :=
  { WithinTable.refl s with
    free := fun r f hf => by
      rw [State.setFreeList_freeList] at hf
      split at hf
      · rename_i e; exact e ▸ free f hf
      · exact .inl hf }

theorem WithinTable.setAgent {s : State} {a : AgentId} {x : Agent}
    (held : ∀ f ∈ x.held, f ∈ (s.agent a).held ∨ f.val < s.built)
    (claims : ∀ e ∈ x.claims, e ∈ (s.agent a).claims ∨ (s.entry e).frame.val < s.built) :
    WithinTable s (s.setAgent a x) :=
  { WithinTable.refl s with
    held := fun b f hf => by
      rw [State.setAgent_agent] at hf
      split at hf
      · rename_i e; exact e ▸ held f hf
      · exact .inl hf
    entry := fun e he => by
      rcases he with q | ⟨b, hb⟩ | l
      · exact .inl ⟨.inl q, rfl⟩
      · rw [State.setAgent_agent] at hb
        split at hb
        · exact (claims e hb).imp (fun h => ⟨.inr (.inl ⟨a, h⟩), rfl⟩) id
        · exact .inl ⟨.inr (.inl ⟨b, hb⟩), rfl⟩
      · exact .inl ⟨.inr (.inr l), rfl⟩ }

theorem WithinTable.setQueue {s : State} {q : QueueId} {x : Queue}
    (lists : ∀ e, e ∈ x.urgent ∨ e ∈ x.normal →
      (e ∈ (s.queue q).urgent ∨ e ∈ (s.queue q).normal) ∨ (s.entry e).frame.val < s.built) :
    WithinTable s (s.setQueue q x) :=
  { WithinTable.refl s with
    entry := fun e he => by
      rcases he with ⟨r, hr⟩ | c
      · rw [State.setQueue_queue] at hr
        split at hr
        · exact (lists e hr).imp (fun h => ⟨.inl ⟨q, h⟩, rfl⟩) id
        · exact .inl ⟨.inl ⟨r, hr⟩, rfl⟩
      · exact .inl ⟨.inr c, rfl⟩ }

theorem WithinTable.setEntry {s : State} {e : EntryId} {x : Entry}
    (frame : x.frame = (s.entry e).frame ∨ x.frame.val < s.built) : WithinTable s (s.setEntry e x) :=
  { WithinTable.refl s with
    entry := fun d hd => by
      have listed : Listed s d := hd
      rw [State.setEntry_entry]
      split
      · rename_i h; subst h; exact frame.imp (fun h => ⟨listed, h⟩) id
      · exact .inl ⟨listed, rfl⟩ }

/-! ### The shared operations -/

theorem WithinTable.joinFreeList {s : State} {f : FrameIdx} (hf : f.val < s.built) :
    WithinTable s (joinFreeList f s) := by
  have framed : WithinTable s
      (s.setFrame f { s.frame f with state := .free, generation := (s.frame f).generation + 1 }) :=
    .setFrame fun h => absurd rfl h
  refine .after (.setFreeList fun g hg => ?_) framed
  exact (List.mem_append.mp hg).imp id fun h => by rw [List.mem_singleton.mp h]; exact hf

theorem WithinTable.freePath {s : State} {f : FrameIdx} (hf : f.val < s.built) :
    WithinTable s (freePath f s) := by
  unfold Machine.freePath
  dsimp only
  split
  · have framed : WithinTable s (s.setFrame f { s.frame f with state := .scrub }) :=
      .setFrame fun _ => .inr hf
    refine .after ?_ framed
    exact
      { WithinTable.refl _ with
        scrub := fun g hg =>
          (List.mem_append.mp hg).imp id fun h => by rw [List.mem_singleton.mp h]; exact hf }
  · exact .after (Quiet.withinTable (.reArmTest ..)) (.joinFreeList hf)

theorem WithinTable.dropReference {s : State} {f : FrameIdx} (hf : f.val < s.built) :
    WithinTable s (dropReference f s) := by
  rw [dropReference_eq]
  split
  · exact .after (.freePath hf) (.setFrame .inl)
  · exact .setFrame .inl

theorem WithinTable.leaveHeld (a : AgentId) (f : FrameIdx) (s : State) :
    WithinTable s (leaveHeld a f s) :=
  .setAgent (fun _ h => .inl (List.mem_of_mem_erase h)) fun _ => .inl

theorem WithinTable.joinHeld {s : State} {a : AgentId} {f : FrameIdx} (hf : f.val < s.built) :
    WithinTable s (joinHeld a f s) :=
  .setAgent
    (fun _ h => (List.mem_append.mp h).imp id fun h => by rw [List.mem_singleton.mp h]; exact hf)
    fun _ => .inl

theorem WithinTable.giveBack {s : State} {a : AgentId} {f : FrameIdx} (hf : f.val < s.built) :
    WithinTable s (giveBack a f s) :=
  .after (.freePath hf) (.after (.setFrame fun _ => .inr hf) (.leaveHeld a f s))

theorem mem_pushTail {x : Queue} {c : EntryClass} {e d : EntryId}
    (h : d ∈ (x.pushTail c e).urgent ∨ d ∈ (x.pushTail c e).normal) :
    (d ∈ x.urgent ∨ d ∈ x.normal) ∨ d = e := by
  cases c <;> simp only [Queue.pushTail, List.mem_append, List.mem_singleton] at h <;> tauto

theorem mem_pushFront {x : Queue} {c : EntryClass} {e d : EntryId}
    (h : d ∈ (x.pushFront c e).urgent ∨ d ∈ (x.pushFront c e).normal) :
    (d ∈ x.urgent ∨ d ∈ x.normal) ∨ d = e := by
  cases c <;> simp only [Queue.pushFront, List.mem_cons] at h <;> tauto

/-- The front entry and the rest of the lists are the queue's. -/
theorem popFront_spec {x : Queue} {e : EntryId} (h : x.front = some e) :
    (∃ rest, x.urgent = e :: rest ∧ x.popFront = { x with urgent := rest }) ∨
      ∃ rest, x.urgent = [] ∧ x.normal = e :: rest ∧ x.popFront = { x with normal := rest } := by
  unfold Queue.front at h
  unfold Queue.popFront
  split at h
  · rename_i d rest hu
    cases h
    exact .inl ⟨rest, hu, rfl⟩
  · rename_i hu
    obtain ⟨rest, hn⟩ := List.head?_eq_some_iff.mp h
    exact .inr ⟨rest, hu, hn, by rw [hu, hn]; rfl⟩

theorem mem_popFront {x : Queue} {d : EntryId}
    (h : d ∈ x.popFront.urgent ∨ d ∈ x.popFront.normal) : d ∈ x.urgent ∨ d ∈ x.normal := by
  unfold Queue.popFront at h
  split at h
  · rename_i hu; rw [hu]; exact h.imp (List.mem_cons_of_mem _) id
  · exact h.imp id List.mem_of_mem_tail

theorem WithinTable.createEntry {s : State} {f : FrameIdx} {urgent : Bool} {q : QueueId}
    (hf : f.val < s.built) : WithinTable s (createEntry f urgent q s) := by
  unfold Machine.createEntry
  split
  · exact .refl s
  · rename_i e rest _
    have taken : WithinTable s { s with freeEntries := rest } := { WithinTable.refl s with }
    refine .after (.setQueue fun d hd => ?_) (.after (.setEntry (.inr hf)) taken)
    refine (mem_pushTail hd).imp id fun h => ?_
    rw [h, State.setEntry_entry_self]
    exact hf

theorem WithinTable.createEntries {f : FrameIdx} {urgent : Bool} (qs : List QueueId) :
    ∀ {s : State}, f.val < s.built →
      WithinTable s (qs.foldl (fun s q => Machine.createEntry f urgent q s) s) := by
  induction qs with
  | nil => exact fun _ => .refl _
  | cons q qs ih =>
    intro s hf
    have created : WithinTable s (Machine.createEntry f urgent q s) := .createEntry hf
    exact .after (ih (created.built ▸ hf)) created

theorem WithinTable.postFrame {s : State} {a : AgentId} {f : FrameIdx} {qs : List QueueId}
    (hf : f.val < s.built) : WithinTable s (postFrame a f qs s) :=
  .after (Quiet.withinTable (.unbind ..))
    (.after (.leaveHeld ..) (.after (.createEntries qs hf) (.setFrame fun _ => .inr hf)))

theorem WithinTable.endClaim (a : AgentId) (e : EntryId) (s : State) : WithinTable s (endClaim a e s) := by
  refine .after (.setEntry (.inl rfl)) (.after (Quiet.withinTable (.leaveDeadlines ..)) ?_)
  exact .setAgent (fun _ => .inl) fun _ h => .inl (List.mem_of_mem_erase h)

theorem WithinTable.freeEntry (e : EntryId) (s : State) : WithinTable s (freeEntry e s) := by
  have freed : WithinTable s (s.setEntry e { s.entry e with place := .free }) := .setEntry (.inl rfl)
  have joined (u : State) : WithinTable u { u with freeEntries := u.freeEntries ++ [e] } :=
    { WithinTable.refl u with }
  exact .after (joined _) freed

theorem WithinTable.joinDeadlines {s : State} {e : EntryId} (he : (s.entry e).frame.val < s.built) :
    WithinTable s (joinDeadlines e s) := by
  unfold Machine.joinDeadlines
  split
  · obtain ⟨x, y, hl, hi, -⟩ := insertDeadline_spec s e s.deadlines
    exact
      { WithinTable.refl s with
        entry := fun d hd => by
          rcases hd with q | a | hd | o
          · exact .inl ⟨.inl q, rfl⟩
          · exact .inl ⟨.inr (.inl a), rfl⟩
          · change d ∈ insertDeadline s e s.deadlines at hd
            rw [hi, List.mem_append, List.mem_cons] at hd
            by_cases h : d = e
            · subst h; exact .inr he
            · refine .inl ⟨.inr (.inr (.inl ?_)), rfl⟩
              rw [hl, List.mem_append]
              exact hd.imp id fun h' => h'.resolve_left h
          · exact .inl ⟨.inr (.inr (.inr o)), rfl⟩ }
  · exact .refl s

theorem joinDeadlines_entry (e d : EntryId) (s : State) : (joinDeadlines e s).entry d = s.entry d := by
  unfold joinDeadlines
  split <;> rfl

theorem WithinTable.claimEntry {s : State} {a : AgentId} {q : QueueId} {e : EntryId}
    (he : (s.entry e).frame.val < s.built) : WithinTable s (claimEntry a q e s) := by
  unfold Machine.claimEntry
  dsimp only
  generalize hx : ({ s.entry e with
    place := .claimed, claimant := some a, deadline := deadlineAt _ _ } : Entry) = x
  have frame : x.frame = (s.entry e).frame := hx ▸ rfl
  have popped : WithinTable s (s.setQueue q (s.queue q).popFront) := .setQueue fun _ h => .inl (mem_popFront h)
  have filled : WithinTable s ((s.setQueue q (s.queue q).popFront).setEntry e x) :=
    .after (.setEntry (.inl frame)) popped
  generalize hu : (s.setQueue q (s.queue q).popFront).setEntry e x = u at filled
  have entry : u.entry e = x := hu ▸ State.setEntry_entry_self ..
  have inTable : (u.entry e).frame.val < u.built := by rw [entry, frame, filled.built]; exact he
  have joined : WithinTable u (Machine.joinDeadlines e u) := .joinDeadlines inTable
  refine .after (.setAgent (fun _ => .inl) fun d hd => ?_) (filled.trans joined)
  refine (List.mem_append.mp hd).imp id fun h => ?_
  rw [List.mem_singleton.mp h, joinDeadlines_entry, joined.built]
  exact inTable

/-! ### The moves -/

/-- A claim to end is an entry that some list holds. -/
theorem Claimed.listed {s : State} {a : AgentId} {e : EntryId} (h : Claimed s a e) : Listed s e :=
  h.elim (fun h => .inr (.inl ⟨a, h⟩)) fun h => .inr (.inr (.inr h.1))

theorem mem_of_front {x : Queue} {e : EntryId} (h : x.front = some e) : e ∈ x.urgent ∨ e ∈ x.normal := by
  rcases popFront_spec h with ⟨rest, hu, -⟩ | ⟨rest, -, hn, -⟩
  · exact .inl (hu ▸ List.mem_cons_self)
  · exact .inr (hn ▸ List.mem_cons_self)

theorem TakenOff.listed {s u : State} {e : EntryId} (h : TakenOff s u e) : Listed s e := by
  cases h with
  | claim a claimed _ => exact claimed.listed
  | front q front _ => exact .inl ⟨q, mem_of_front front⟩

theorem TakenOff.withinTable {s u : State} {e : EntryId} (h : TakenOff s u e) : WithinTable s u := by
  cases h with
  | claim a _ ended => exact .after ended.withinTable (.endClaim a e s)
  | front q _ popped => exact .after popped.withinTable (.setQueue fun _ h => .inl (mem_popFront h))

/-- Taking an entry off its list keeps its frame. -/
theorem TakenOff.frame {s u : State} {e : EntryId} (h : TakenOff s u e) :
    (u.entry e).frame = (s.entry e).frame := by
  cases h with
  | claim a _ ended => rw [ended.frame, endClaim_entry, if_pos rfl]
  | front q _ popped => exact popped.frame e

theorem holds_spec {s : State} {a : AgentId} {f : FrameIdx} (h : holds s a f = true) :
    (s.frame f).state = .held ∧ (s.frame f).holder = some a := (holds_iff s a f).mp h

theorem FrameTableLaw.holds_in_table {s : State} (l : FrameTableLaw s) {a : AgentId} {f : FrameIdx}
    (h : holds s a f = true) : f.val < s.built :=
  l.in_table f (by rw [(holds_spec h).1]; exact nofun)

theorem Emptied.frameTableLaw {t : State} (h : Emptied t) : FrameTableLaw t where
  fits c := by rcases h.controller with e | e <;> rw [e] at c <;> simp at c
  progress := by rw [h.built]; exact Nat.zero_le _
  empty _ := h.built
  complete c := by rcases h.controller with e | e <;> rw [e] at c <;> cases c
  pools_match f hf := by rw [h.built] at hf; cases hf
  in_table f hf := absurd (h.frame f).1 hf
  free_in_table p f hf := by rw [h.freeList] at hf; cases hf
  scrub_in_table f hf := by rw [h.scrubList] at hf; cases hf
  held_in_table a f hf := by rw [(h.agent a).1] at hf; cases hf
  entries_in_table e he := by
    unfold Listed at he
    simp only [(h.queue _).1, (h.queue _).2, (h.agent _).2, h.deadlines, h.handedOver] at he
    simp at he

/-- In CONFIG no frame is built, and the pools may be defined as they like. -/
theorem FrameTableLaw.define {s : State} (l : FrameTableLaw s) {p : PoolId} {x : Pool}
    (config : s.controller = .config) : FrameTableLaw (s.setPool p x) := by
  have built : s.built = 0 := l.empty (.inr config)
  exact
    { fits := fun c => by
        rw [State.setPool_controller, config] at c
        simp at c
      progress := by rw [State.setPool_built, built]; exact Nat.zero_le _
      empty := l.empty
      complete := fun c => by
        rw [State.setPool_controller, config] at c
        cases c
      pools_match := fun f hf => by
        rw [State.setPool_built, built] at hf
        cases hf
      in_table := l.in_table
      free_in_table := l.free_in_table
      scrub_in_table := l.scrub_in_table
      held_in_table := l.held_in_table
      entries_in_table := l.entries_in_table }

/-- FORMAT accepts what fits frame memory (R155). -/
theorem formatFailure_none {s : State} (h : formatFailure s = none) :
    frameTotal s ≤ 1024 ∧ layoutBytes s ≤ 131072 := by
  simp only [formatFailure, firstRefusal_eq_none_iff, List.cons_append, List.forall_mem_cons,
    refuseIf_eq_none_iff, Bool.or_eq_false_iff, Config.maxFrames, Config.memoryBytes] at h
  exact ⟨not_lt.mp (of_decide_eq_false h.1.2), not_lt.mp (of_decide_eq_false h.2.1)⟩

theorem FrameTableLaw.format {s : State} (l : FrameTableLaw s) (config : s.controller = .config)
    (valid : formatFailure s = none) :
    FrameTableLaw { s with controller := .formatting, built := 0 } := by
  have built : s.built = 0 := l.empty (.inr config)
  exact
    { fits := fun _ => formatFailure_none valid
      progress := Nat.zero_le _
      empty := fun _ => rfl
      complete := nofun
      pools_match := nofun
      in_table := fun f hf => built ▸ l.in_table f hf
      free_in_table := fun p f hf => built ▸ l.free_in_table p f hf
      scrub_in_table := fun f hf => built ▸ l.scrub_in_table f hf
      held_in_table := fun a f hf => built ▸ l.held_in_table a f hf
      entries_in_table := fun e he => built ▸ l.entries_in_table e he }

theorem enterFrame_frame (f g : FrameIdx) (s : State) : (enterFrame f s).frame g =
    if g = f then { Frame.absent ((s.frame f).generation + 1) with pool := poolOfIndex s f.val }
    else s.frame g := Table.get_set ..

theorem enterFrame_freeList (f : FrameIdx) (p : PoolId) (s : State) : (enterFrame f s).freeList p =
    if p = poolOfIndex s f.val then s.freeList (poolOfIndex s f.val) ++ [f] else s.freeList p :=
  Table.get_set ..

/-- A build step enters the next index, in the pool that it falls in (R156). -/
theorem FrameTableLaw.build {s : State} (l : FrameTableLaw s) {f : FrameIdx}
    (formatting : s.controller = .formatting) (next : f.val = s.built) (more : s.built < frameTotal s) :
    FrameTableLaw (enterFrame f s) where
  fits := l.fits
  progress := more
  empty c := by
    change s.controller = .init ∨ s.controller = .config at c
    rw [formatting] at c
    simp at c
  complete c := by
    change s.controller = .running at c
    rw [formatting] at c
    cases c
  pools_match g hg := by
    change g.val < s.built + 1 at hg
    change ((enterFrame f s).frame g).pool = poolOfIndex s g.val
    rw [enterFrame_frame]
    split
    · rename_i e; rw [e]
    · rename_i e
      exact l.pools_match g (by have := Fin.val_ne_of_ne e; omega)
  in_table g hg := by
    rw [enterFrame_frame] at hg
    split at hg
    · exact absurd rfl hg
    · exact Nat.lt_succ_of_lt (l.in_table g hg)
  free_in_table p g hg := by
    change g.val < s.built + 1
    rw [enterFrame_freeList] at hg
    split at hg
    · rcases List.mem_append.mp hg with hg | hg
      · exact Nat.lt_succ_of_lt (l.free_in_table _ g hg)
      · rw [List.mem_singleton.mp hg]; omega
    · exact Nat.lt_succ_of_lt (l.free_in_table p g hg)
  scrub_in_table g hg := Nat.lt_succ_of_lt (l.scrub_in_table g hg)
  held_in_table a g hg := Nat.lt_succ_of_lt (l.held_in_table a g hg)
  entries_in_table e he := Nat.lt_succ_of_lt (l.entries_in_table e he)

/-- Every move keeps the law of the frame table. -/
theorem Move.keeps_frameTableLaw {s t : State} (h : Move s t) (l : FrameTableLaw s) :
    FrameTableLaw t := by
  cases h with
  | quiet h => exact l.of_traffic h.traffic h.withinTable
  | memory => exact { l with }
  | attach => exact l.of_traffic .of_records (.setAgent nofun nofun)
  | @alloc a p f rest _ front =>
    have free (g : FrameIdx) (hg : g ∈ f :: rest) : g ∈ s.freeList p := front ▸ hg
    have hf : f.val < s.built := l.free_in_table p f (free f List.mem_cons_self)
    have shortened : WithinTable s (s.setFreeList p rest) :=
      .setFreeList fun g hg => .inl (free g (List.mem_cons_of_mem _ hg))
    have listed : Traffic s (s.setFreeList p rest) := .of_records
    exact l.of_traffic (.after (.allocFrame ..) listed)
      (.after (.joinHeld hf) (.after (.setFrame fun _ => .inr hf) shortened))
  | giveBack held =>
    exact l.of_traffic (.giveBack ..) (.giveBack (held.elim (l.held_in_table _ _) l.holds_in_table))
  | post held => exact l.of_traffic (.postFrame ..) (.postFrame (l.holds_in_table held))
  | claim _ front =>
    exact l.of_traffic (.claimEntry ..)
      (.claimEntry (l.entries_in_table _ (.inl ⟨_, mem_of_front front⟩)))
  | @requeue u a e x y claimed ended _ _ frame _ joined =>
    have off : TakenOff s u e := .claim a claimed ended
    have hx : x.frame.val < u.built := by
      rw [frame, off.frame, off.withinTable.built]
      exact l.entries_in_table e off.listed
    have queued : Traffic u ((u.setEntry e x).setQueue x.home y) := .of_records
    refine l.of_traffic (.after queued off.traffic) (.after ?_ off.withinTable)
    refine .after (.setQueue fun d hd => ?_) (.setEntry (.inr hx))
    have lists : (d ∈ (u.queue x.home).urgent ∨ d ∈ (u.queue x.home).normal) ∨ d = e := by
      rcases joined with rfl | rfl
      · exact mem_pushFront hd
      · exact mem_pushTail hd
    refine lists.imp id fun h => ?_
    rw [h, State.setEntry_entry_self]
    exact hx
  | @drop u v e off freed =>
    have w : WithinTable s v := .after freed.withinTable (.after (.freeEntry e u) off.withinTable)
    have free : Traffic u (freeEntry e u) := .of_records
    have hf : (u.entry e).frame.val < v.built := by
      rw [off.frame, w.built]
      exact l.entries_in_table e off.listed
    exact l.of_traffic (.after (.dropReference ..) (.after freed.traffic (off.traffic.trans free)))
      (.after (.dropReference hf) w)
  | @take u a e _ claimed _ freed =>
    have w : WithinTable s u := freed ▸ .after (.freeEntry ..) (.endClaim a e s)
    have free : Traffic (endClaim a e s) u := freed ▸ .of_records
    have hf : (s.entry e).frame.val < u.built := by
      rw [w.built]
      exact l.entries_in_table e (.inr (.inl ⟨a, claimed⟩))
    have joined (v : State) : Traffic v (joinHeld a (s.entry e).frame v) := .of_records
    exact l.of_traffic
      (.after (joined _) (.after (.setFrame rfl) (.after free (.endClaim a e s))))
      (.after (.joinHeld hf) (.after (.setFrame fun _ => .inr hf) w))
  | @scrub f rest front =>
    have scrub (g : FrameIdx) (hg : g ∈ f :: rest) : g ∈ s.scrubList := front ▸ hg
    have shortened : WithinTable s { s with scrubList := rest } :=
      { WithinTable.refl s with scrub := fun g hg => .inl (scrub g (List.mem_cons_of_mem _ hg)) }
    have listed : Traffic s { s with scrubList := rest } := .of_records
    have hf : f.val < s.built := l.scrub_in_table f (scrub f List.mem_cons_self)
    exact l.of_traffic (.after (.joinFreeList ..) listed) (.after (.joinFreeList hf) shortened)
  | define config => exact l.define config
  | format config valid => exact l.format config valid
  | build formatting next more => exact l.build formatting next more
  | formatted formatting all =>
    exact
      { l with
        fits := fun _ => l.fits (.inl formatting)
        empty := by simp
        complete := fun _ => ⟨Nat.le_antisymm l.progress all, rfl⟩ }
  | initialised init =>
    exact
      { l with
        fits := by simp
        empty := fun _ => l.empty (.inl init)
        complete := nofun }
  | empty empty => exact empty.frameTableLaw

/-- Settles O54: every move keeps the frame table to its layout, so a step does. -/
theorem everyStepKeepsFrameTableLaw : Obligations.EveryStepKeepsFrameTableLaw := fun _ _ l h =>
  (step_moves h).keeps (fun _ _ => Move.keeps_frameTableLaw) l

end Sys2Proof.Machine

end

/-!
The law of the entries. While a command moves an entry from one list to another the entry stands on none:
`EntryLawWith l` is the law for a state in which the entries of `l` are on their way. Taking an entry off its
list leads from `EntryLaw` to `EntryLawWith [e]`, and joining a list leads back.
-/

section

-- Taken one after the other, the proofs need one thread (see Tests/Slice0.lean).
set_option Elab.async false

namespace Sys2Proof.Machine

/-! ## The lists of entries -/

theorem mem_liveEntries {s : State} {e : EntryId} : e ∈ liveEntries s ↔
    (∃ q, e ∈ (s.queue q).urgent ∨ e ∈ (s.queue q).normal) ∨ ∃ a, e ∈ (s.agent a).claims := by
  simp [liveEntries, List.mem_flatMap]

theorem mem_entryLists {s : State} {e : EntryId} :
    e ∈ entryLists s ↔ e ∈ s.freeEntries ∨ e ∈ liveEntries s := List.mem_append

/-- One element more in one of the lists that are chained. -/
theorem flatMap_perm_cons {ι α : Type} {l : List ι} {k : ι} {f g : ι → List α} {e : α} (once : l.Nodup)
    (mem : k ∈ l) (here : (f k).Perm (e :: g k)) (same : ∀ i, i ≠ k → f i = g i) :
    (l.flatMap f).Perm (e :: l.flatMap g) := by
  induction l with
  | nil => cases mem
  | cons i l ih =>
    obtain ⟨notin, once⟩ := List.nodup_cons.mp once
    rw [List.flatMap_cons, List.flatMap_cons]
    by_cases h : i = k
    · subst h
      have rest : l.flatMap f = l.flatMap g :=
        List.flatMap_congr fun j hj => same j fun c => notin (c ▸ hj)
      rw [rest]
      exact here.append_right _
    · rw [same i h]
      have mem : k ∈ l := (List.mem_cons.mp mem).resolve_left fun c => h c.symm
      exact ((ih once mem).append_left _).trans List.perm_middle

/-- One entry more in a queue. -/
theorem liveEntries_setQueue {s : State} {q : QueueId} {x : Queue} {e : EntryId}
    (h : (x.urgent ++ x.normal).Perm (e :: ((s.queue q).urgent ++ (s.queue q).normal))) :
    (liveEntries (s.setQueue q x)).Perm (e :: liveEntries s) := by
  refine List.Perm.append_right _ (flatMap_perm_cons (k := q) (List.nodup_finRange 32)
    (List.mem_finRange q) ?_ fun r hr => ?_)
  · rw [State.setQueue_queue_self]; exact h
  · rw [State.setQueue_queue, if_neg hr]

/-- One entry less in a queue. -/
theorem liveEntries_of_setQueue {s : State} {q : QueueId} {x : Queue} {e : EntryId}
    (h : ((s.queue q).urgent ++ (s.queue q).normal).Perm (e :: (x.urgent ++ x.normal))) :
    (liveEntries s).Perm (e :: liveEntries (s.setQueue q x)) := by
  refine List.Perm.append_right _ (flatMap_perm_cons (k := q) (List.nodup_finRange 32)
    (List.mem_finRange q) ?_ fun r hr => ?_)
  · rw [State.setQueue_queue_self]; exact h
  · rw [State.setQueue_queue, if_neg hr]

/-- One entry more on a claim list. -/
theorem liveEntries_setAgent {s : State} {a : AgentId} {x : Agent} {e : EntryId}
    (h : x.claims.Perm (e :: (s.agent a).claims)) :
    (liveEntries (s.setAgent a x)).Perm (e :: liveEntries s) := by
  refine (List.Perm.append_left _ (flatMap_perm_cons (k := a) (List.nodup_finRange 8)
    (List.mem_finRange a) ?_ fun b hb => ?_)).trans List.perm_middle
  · rw [State.setAgent_agent_self]; exact h
  · rw [State.setAgent_agent, if_neg hb]

/-- One entry less on a claim list. -/
theorem liveEntries_of_setAgent {s : State} {a : AgentId} {x : Agent} {e : EntryId}
    (h : (s.agent a).claims.Perm (e :: x.claims)) :
    (liveEntries s).Perm (e :: liveEntries (s.setAgent a x)) := by
  refine (List.Perm.append_left _ (flatMap_perm_cons (k := a) (List.nodup_finRange 8)
    (List.mem_finRange a) ?_ fun b hb => ?_)).trans List.perm_middle
  · rw [State.setAgent_agent_self]; exact h
  · rw [State.setAgent_agent, if_neg hb]

theorem liveEntries_setEntry (s : State) (e : EntryId) (x : Entry) :
    liveEntries (s.setEntry e x) = liveEntries s := rfl

theorem pushTail_perm (x : Queue) (c : EntryClass) (e : EntryId) :
    ((x.pushTail c e).urgent ++ (x.pushTail c e).normal).Perm (e :: (x.urgent ++ x.normal)) := by
  cases c with
  | urgent => exact (List.perm_append_singleton e x.urgent).append_right _
  | normal => exact ((List.perm_append_singleton e x.normal).append_left _).trans List.perm_middle

theorem pushFront_perm (x : Queue) (c : EntryClass) (e : EntryId) :
    ((x.pushFront c e).urgent ++ (x.pushFront c e).normal).Perm (e :: (x.urgent ++ x.normal)) := by
  cases c with
  | urgent => exact .refl _
  | normal => exact List.perm_middle

theorem popFront_perm {x : Queue} {e : EntryId} (h : x.front = some e) :
    (x.urgent ++ x.normal).Perm (e :: (x.popFront.urgent ++ x.popFront.normal)) := by
  rcases popFront_spec h with ⟨rest, hu, hp⟩ | ⟨rest, hu, hn, hp⟩
  · rw [hp, hu]; exact .refl _
  · rw [hp, hu, hn]; exact .refl _

/-! ## Updates that leave the entries -/

/-- An update that replaces neither a queue, nor an agent, nor an entry. -/
theorem SameEntries.of_records {s t : State} (freeEntries : t.freeEntries = s.freeEntries := by rfl)
    (queues : t.queues = s.queues := by rfl) (agents : t.agents = s.agents := by rfl)
    (entries : t.entries = s.entries := by rfl) : SameEntries s t where
  freeEntries := freeEntries
  urgent q := by rw [State.queue, queues]; rfl
  normal q := by rw [State.queue, queues]; rfl
  claims a := by rw [State.agent, agents]; rfl
  entry e := by rw [State.entry, entries]; rfl

/-- `SameEntries.trans` with the last change first. -/
theorem SameEntries.after {s t u : State} (k : SameEntries t u) (h : SameEntries s t) : SameEntries s u :=
  h.trans k

theorem SameEntries.setAgent {s : State} {a : AgentId} {x : Agent} (claims : x.claims = (s.agent a).claims) :
    SameEntries s (s.setAgent a x) :=
  { (SameEntries.of_records : SameEntries s s) with
    claims := fun b => by rw [State.setAgent_agent]; split <;> simp_all }

theorem SameEntries.freePath (f : FrameIdx) (s : State) : SameEntries s (freePath f s) := by
  rw [freePath_eq]; exact .of_records

theorem SameEntries.dropReference (f : FrameIdx) (s : State) : SameEntries s (dropReference f s) := by
  rw [dropReference_eq]
  split
  · exact .after (.freePath ..) .of_records
  · exact .of_records

theorem SameEntries.giveBack (a : AgentId) (f : FrameIdx) (s : State) : SameEntries s (giveBack a f s) := by
  have left : SameEntries s (leaveHeld a f s) := .setAgent rfl
  exact .after (.freePath ..) (.after .of_records left)

theorem SameEntries.allocFrame (a : AgentId) (f : FrameIdx) (s : State) :
    SameEntries s (allocFrame a f s) :=
  .after (.setAgent rfl) .of_records

theorem SameEntries.liveEntries {s t : State} (h : SameEntries s t) : liveEntries t = liveEntries s := by
  simp only [Machine.liveEntries, h.urgent, h.normal, h.claims]

theorem SameEntries.entryLists {s t : State} (h : SameEntries s t) : entryLists t = entryLists s := by
  rw [Machine.entryLists, Machine.entryLists, h.freeEntries, h.liveEntries]

/-! ## The law with entries on their way -/

/-- The law of the entries while the entries of `l` stand on no list. -/
structure EntryLawWith (l : List EntryId) (s : State) : Prop where
  once : (l ++ entryLists s).Perm (List.finRange 2048)
  free_place : ∀ e ∈ s.freeEntries, (s.entry e).place = .free ∧ (s.entry e).claimant = none
  urgent_place : ∀ q, ∀ e ∈ (s.queue q).urgent,
    (s.entry e).place = .queued ∧ (s.entry e).home = q ∧ (s.entry e).cls = .urgent ∧
      (s.entry e).claimant = none
  normal_place : ∀ q, ∀ e ∈ (s.queue q).normal,
    (s.entry e).place = .queued ∧ (s.entry e).home = q ∧ (s.entry e).cls = .normal ∧
      (s.entry e).claimant = none
  claimed_place : ∀ a, ∀ e ∈ (s.agent a).claims,
    (s.entry e).place = .claimed ∧ (s.entry e).claimant = some a

theorem entryLaw_iff (s : State) : EntryLaw s ↔ EntryLawWith [] s :=
  ⟨fun h => ⟨h.once, h.free_place, h.urgent_place, h.normal_place, h.claimed_place⟩,
    fun h => ⟨h.once, h.free_place, h.urgent_place, h.normal_place, h.claimed_place⟩⟩

/-- The law speaks of nothing that these updates change. -/
theorem EntryLawWith.of_same {l : List EntryId} {s t : State} (h : EntryLawWith l s)
    (k : SameEntries s t) : EntryLawWith l t where
  once := by rw [k.entryLists]; exact h.once
  free_place e he := by
    rw [k.entry e]
    exact h.free_place e (k.freeEntries ▸ he)
  urgent_place q e he := by
    rw [k.entry e]
    exact h.urgent_place q e (k.urgent q ▸ he)
  normal_place q e he := by
    rw [k.entry e]
    exact h.normal_place q e (k.normal q ▸ he)
  claimed_place a e he := by
    rw [k.entry e]
    exact h.claimed_place a e (k.claims a ▸ he)

theorem EntryLaw.of_same {s t : State} (h : EntryLaw s) (k : SameEntries s t) : EntryLaw t :=
  (entryLaw_iff t).mpr (((entryLaw_iff s).mp h).of_same k)

theorem EntryLaw.nodup {s : State} (h : EntryLaw s) : (entryLists s).Nodup :=
  h.once.nodup_iff.mpr (List.nodup_finRange 2048)

/-- An entry leaves its list. -/
theorem EntryLaw.leave {s u : State} {e : EntryId} (h : EntryLaw s)
    (perm : (entryLists s).Perm (e :: entryLists u)) (others : ∀ d, d ≠ e → u.entry d = s.entry d)
    (free : ∀ d ∈ u.freeEntries, d ∈ s.freeEntries)
    (urgent : ∀ q, ∀ d ∈ (u.queue q).urgent, d ∈ (s.queue q).urgent)
    (normal : ∀ q, ∀ d ∈ (u.queue q).normal, d ∈ (s.queue q).normal)
    (claims : ∀ a, ∀ d ∈ (u.agent a).claims, d ∈ (s.agent a).claims) : EntryLawWith [e] u := by
  have notin : e ∉ entryLists u := (List.nodup_cons.mp (perm.nodup_iff.mp h.nodup)).1
  have same (d : EntryId) (hd : d ∈ entryLists u) : u.entry d = s.entry d :=
    others d fun c => notin (c ▸ hd)
  have live (d : EntryId) (hd : d ∈ liveEntries u) : u.entry d = s.entry d :=
    same d (mem_entryLists.mpr (.inr hd))
  exact
    { once := perm.symm.trans h.once
      free_place := fun d hd => by
        rw [same d (mem_entryLists.mpr (.inl hd))]
        exact h.free_place d (free d hd)
      urgent_place := fun q d hd => by
        rw [live d (mem_liveEntries.mpr (.inl ⟨q, .inl hd⟩))]
        exact h.urgent_place q d (urgent q d hd)
      normal_place := fun q d hd => by
        rw [live d (mem_liveEntries.mpr (.inl ⟨q, .inr hd⟩))]
        exact h.normal_place q d (normal q d hd)
      claimed_place := fun a d hd => by
        rw [live d (mem_liveEntries.mpr (.inr ⟨a, hd⟩))]
        exact h.claimed_place a d (claims a d hd) }

/-- The entry on its way joins a list that its record fits. -/
theorem EntryLawWith.join {u t : State} {e : EntryId} (h : EntryLawWith [e] u)
    (perm : (entryLists t).Perm (e :: entryLists u)) (others : ∀ d, d ≠ e → t.entry d = u.entry d)
    (free : ∀ d ∈ t.freeEntries, d ∈ u.freeEntries ∨
      d = e ∧ (t.entry e).place = .free ∧ (t.entry e).claimant = none)
    (urgent : ∀ q, ∀ d ∈ (t.queue q).urgent, d ∈ (u.queue q).urgent ∨
      d = e ∧ (t.entry e).place = .queued ∧ (t.entry e).home = q ∧ (t.entry e).cls = .urgent ∧
        (t.entry e).claimant = none)
    (normal : ∀ q, ∀ d ∈ (t.queue q).normal, d ∈ (u.queue q).normal ∨
      d = e ∧ (t.entry e).place = .queued ∧ (t.entry e).home = q ∧ (t.entry e).cls = .normal ∧
        (t.entry e).claimant = none)
    (claims : ∀ a, ∀ d ∈ (t.agent a).claims, d ∈ (u.agent a).claims ∨
      d = e ∧ (t.entry e).place = .claimed ∧ (t.entry e).claimant = some a) : EntryLaw t := by
  have nodup : (e :: entryLists u).Nodup := h.once.nodup_iff.mpr (List.nodup_finRange 2048)
  have notin : e ∉ entryLists u := (List.nodup_cons.mp nodup).1
  have same (d : EntryId) (hd : d ∈ entryLists u) : t.entry d = u.entry d :=
    others d fun c => notin (c ▸ hd)
  have live (d : EntryId) (hd : d ∈ liveEntries u) : t.entry d = u.entry d :=
    same d (mem_entryLists.mpr (.inr hd))
  exact
    { once := perm.trans h.once
      free_place := fun d hd => by
        rcases free d hd with hd | ⟨rfl, placed⟩
        · rw [same d (mem_entryLists.mpr (.inl hd))]
          exact h.free_place d hd
        · exact placed
      urgent_place := fun q d hd => by
        rcases urgent q d hd with hd | ⟨rfl, placed⟩
        · rw [live d (mem_liveEntries.mpr (.inl ⟨q, .inl hd⟩))]
          exact h.urgent_place q d hd
        · exact placed
      normal_place := fun q d hd => by
        rcases normal q d hd with hd | ⟨rfl, placed⟩
        · rw [live d (mem_liveEntries.mpr (.inl ⟨q, .inr hd⟩))]
          exact h.normal_place q d hd
        · exact placed
      claimed_place := fun a d hd => by
        rcases claims a d hd with hd | ⟨rfl, placed⟩
        · rw [live d (mem_liveEntries.mpr (.inr ⟨a, hd⟩))]
          exact h.claimed_place a d hd
        · exact placed }

/-- The record of the entry on its way may be written. -/
theorem EntryLawWith.setEntry {u : State} {e : EntryId} (h : EntryLawWith [e] u) (x : Entry) :
    EntryLawWith [e] (u.setEntry e x) := by
  have nodup : (e :: entryLists u).Nodup := h.once.nodup_iff.mpr (List.nodup_finRange 2048)
  have notin : e ∉ entryLists u := (List.nodup_cons.mp nodup).1
  have same (d : EntryId) (hd : d ∈ entryLists u) : (u.setEntry e x).entry d = u.entry d := by
    rw [State.setEntry_entry, if_neg fun c : d = e => notin (c ▸ hd)]
  have live (d : EntryId) (hd : d ∈ liveEntries u) : (u.setEntry e x).entry d = u.entry d :=
    same d (mem_entryLists.mpr (.inr hd))
  exact
    { once := h.once
      free_place := fun d hd => by
        rw [same d (mem_entryLists.mpr (.inl hd))]; exact h.free_place d hd
      urgent_place := fun q d hd => by
        rw [live d (mem_liveEntries.mpr (.inl ⟨q, .inl hd⟩))]; exact h.urgent_place q d hd
      normal_place := fun q d hd => by
        rw [live d (mem_liveEntries.mpr (.inl ⟨q, .inr hd⟩))]; exact h.normal_place q d hd
      claimed_place := fun a d hd => by
        rw [live d (mem_liveEntries.mpr (.inr ⟨a, hd⟩))]; exact h.claimed_place a d hd }

/-! ## Taking an entry off its list -/

/-- Under the law a claim to end is on the agent's claim list (R63, R84). -/
theorem Claimed.mem {s : State} {a : AgentId} {e : EntryId} (h : Claimed s a e) (l : EntryLaw s) :
    e ∈ (s.agent a).claims := by
  rcases h with h | ⟨-, claimant⟩
  · exact h
  · have listed : e ∈ entryLists s := l.once.mem_iff.mpr (List.mem_finRange e)
    rcases mem_entryLists.mp listed with hf | hl
    · exact absurd ((l.free_place e hf).2.symm.trans claimant) nofun
    · rcases mem_liveEntries.mp hl with ⟨q, hu | hn⟩ | ⟨b, hb⟩
      · exact absurd ((l.urgent_place q e hu).2.2.2.symm.trans claimant) nofun
      · exact absurd ((l.normal_place q e hn).2.2.2.symm.trans claimant) nofun
      · have : b = a := Option.some.inj ((l.claimed_place b e hb).2.symm.trans claimant)
        exact this ▸ hb

theorem endClaim_agent (a b : AgentId) (e : EntryId) (s : State) : (endClaim a e s).agent b =
    if b = a then { s.agent a with claims := (s.agent a).claims.erase e } else s.agent b := by
  rw [endClaim_eq]; exact Table.get_set ..

/-- The end of a claim takes the entry off the claim list; all else it does is to the entry's own record and
the timer. -/
theorem EntryLaw.endClaim {s : State} {a : AgentId} {e : EntryId} (h : EntryLaw s)
    (mem : e ∈ (s.agent a).claims) : EntryLawWith [e] (endClaim a e s) := by
  have live := liveEntries_of_setAgent (s := s) (a := a)
    (x := { s.agent a with claims := (s.agent a).claims.erase e }) (List.perm_cons_erase mem)
  have left : EntryLawWith [e] (s.setAgent a { s.agent a with claims := (s.agent a).claims.erase e }) := by
    refine h.leave ((live.append_left _).trans List.perm_middle) (fun _ _ => rfl) (fun _ => id)
      (fun _ _ => id) (fun _ _ => id) fun b d hd => ?_
    rw [State.setAgent_agent] at hd
    split at hd
    · rename_i hb; exact hb ▸ List.mem_of_mem_erase hd
    · exact hd
  exact (left.of_same (Quiet.leaveDeadlines e _).toSameEntries).setEntry _

theorem endClaim_live {s : State} {a : AgentId} {e : EntryId} (mem : e ∈ (s.agent a).claims) :
    (liveEntries s).Perm (e :: liveEntries (endClaim a e s)) := by
  have live := liveEntries_of_setAgent (s := s) (a := a)
    (x := { s.agent a with claims := (s.agent a).claims.erase e }) (List.perm_cons_erase mem)
  have ended : endClaim a e s = (leaveDeadlines e (s.setAgent a { s.agent a with
      claims := (s.agent a).claims.erase e })).setEntry e _ := rfl
  rw [ended, liveEntries_setEntry, (Quiet.leaveDeadlines e _).toSameEntries.liveEntries]
  exact live

theorem popFront_sub {x : Queue} (d : EntryId) :
    (d ∈ x.popFront.urgent → d ∈ x.urgent) ∧ (d ∈ x.popFront.normal → d ∈ x.normal) := by
  unfold Queue.popFront
  split
  · rename_i hu; rw [hu]; exact ⟨List.mem_cons_of_mem _, id⟩
  · exact ⟨id, List.mem_of_mem_tail⟩

theorem EntryLaw.popFront {s : State} {q : QueueId} {e : EntryId} (h : EntryLaw s)
    (front : (s.queue q).front = some e) : EntryLawWith [e] (s.setQueue q (s.queue q).popFront) := by
  have live := liveEntries_of_setQueue (popFront_perm front)
  refine h.leave ((live.append_left _).trans List.perm_middle) (fun _ _ => rfl) (fun _ => id)
    (fun r d hd => ?_) (fun r d hd => ?_) fun _ _ => id
  · rw [State.setQueue_queue] at hd
    split at hd
    · rename_i hr; exact hr ▸ (popFront_sub d).1 hd
    · exact hd
  · rw [State.setQueue_queue] at hd
    split at hd
    · rename_i hr; exact hr ▸ (popFront_sub d).2 hd
    · exact hd

theorem TakenOff.entryLaw {s u : State} {e : EntryId} (off : TakenOff s u e) (h : EntryLaw s) :
    EntryLawWith [e] u := by
  cases off with
  | claim a claimed ended => exact (h.endClaim (claimed.mem h)).of_same ended.toSameEntries
  | front q front popped => exact (h.popFront front).of_same popped.toSameEntries

/-- The entries in use lose the one taken off. -/
theorem TakenOff.live {s u : State} {e : EntryId} (off : TakenOff s u e) (h : EntryLaw s) :
    (liveEntries s).Perm (e :: liveEntries u) := by
  cases off with
  | claim a claimed ended => rw [ended.liveEntries]; exact endClaim_live (claimed.mem h)
  | front q front popped => rw [popped.liveEntries]; exact liveEntries_of_setQueue (popFront_perm front)

/-- Taking an entry off its list keeps what the entries refer to. -/
theorem TakenOff.entries {s u : State} {e : EntryId} (off : TakenOff s u e) (d : EntryId) :
    (u.entry d).frame = (s.entry d).frame ∧ (u.entry d).home = (s.entry d).home := by
  cases off with
  | claim a _ ended =>
    rw [ended.entry d, endClaim_entry]
    split
    · rename_i hd; subst hd; exact ⟨rfl, rfl⟩
    · exact ⟨rfl, rfl⟩
  | front q _ popped => rw [popped.entry d]; exact ⟨rfl, rfl⟩

theorem TakenOff.claimant {s u : State} {e : EntryId} (off : TakenOff s u e) (h : EntryLaw s) :
    (u.entry e).claimant = none := by
  cases off with
  | claim a _ ended => rw [ended.entry e, endClaim_entry, if_pos rfl]
  | front q front popped =>
    rw [popped.entry e]
    rcases mem_of_front front with hu | hn
    · exact (h.urgent_place q e hu).2.2.2
    · exact (h.normal_place q e hn).2.2.2

/-! ## Joining a list -/

theorem freeEntry_entry (e d : EntryId) (s : State) : (freeEntry e s).entry d =
    if d = e then { s.entry e with place := .free } else s.entry d := Table.get_set ..

theorem EntryLawWith.freeEntry {u : State} {e : EntryId} (h : EntryLawWith [e] u)
    (claimant : (u.entry e).claimant = none) : EntryLaw (freeEntry e u) := by
  refine h.join ?_ (fun d hd => by rw [freeEntry_entry, if_neg hd]) (fun d hd => ?_)
    (fun _ _ => .inl) (fun _ _ => .inl) fun _ _ => .inl
  · exact (List.perm_append_singleton e u.freeEntries).append_right (liveEntries u)
  · refine (List.mem_append.mp hd).imp id fun hd => ⟨List.mem_singleton.mp hd, ?_⟩
    rw [freeEntry_entry, if_pos rfl]
    exact ⟨rfl, claimant⟩

/-- An entry joins the front or the tail of the list of its class (R25). -/
theorem EntryLawWith.queued {u : State} {e : EntryId} {x : Entry} {y : Queue} (h : EntryLawWith [e] u)
    (place : x.place = .queued) (claimant : x.claimant = none)
    (joined : y = (u.queue x.home).pushFront x.cls e ∨ y = (u.queue x.home).pushTail x.cls e) :
    EntryLaw ((u.setEntry e x).setQueue x.home y) := by
  have perm : (y.urgent ++ y.normal).Perm
      (e :: ((u.queue x.home).urgent ++ (u.queue x.home).normal)) := by
    rcases joined with rfl | rfl
    · exact pushFront_perm ..
    · exact pushTail_perm ..
  have live := liveEntries_setQueue (s := u.setEntry e x) (q := x.home) perm
  have urgent (d : EntryId) (hd : d ∈ y.urgent) :
      d ∈ (u.queue x.home).urgent ∨ d = e ∧ x.cls = .urgent := by
    rcases joined with rfl | rfl <;> cases hc : x.cls <;>
      simp [Queue.pushFront, Queue.pushTail, hc] at hd ⊢ <;> tauto
  have normal (d : EntryId) (hd : d ∈ y.normal) :
      d ∈ (u.queue x.home).normal ∨ d = e ∧ x.cls = .normal := by
    rcases joined with rfl | rfl <;> cases hc : x.cls <;>
      simp [Queue.pushFront, Queue.pushTail, hc] at hd ⊢ <;> tauto
  have entry : ((u.setEntry e x).setQueue x.home y).entry e = x := State.setEntry_entry_self ..
  refine h.join ((live.append_left _).trans List.perm_middle)
    (fun d hd => (State.setEntry_entry u e d x).trans (if_neg hd)) (fun _ => .inl) (fun r d hd => ?_)
    (fun r d hd => ?_) fun _ _ => .inl
  · rw [State.setQueue_queue] at hd
    split at hd
    · rename_i hr
      subst hr
      refine (urgent d hd).imp id fun ⟨he, cls⟩ => ⟨he, ?_⟩
      rw [entry]
      exact ⟨place, rfl, cls, claimant⟩
    · exact .inl hd
  · rw [State.setQueue_queue] at hd
    split at hd
    · rename_i hr
      subst hr
      refine (normal d hd).imp id fun ⟨he, cls⟩ => ⟨he, ?_⟩
      rw [entry]
      exact ⟨place, rfl, cls, claimant⟩
    · exact .inl hd

/-! ## Claiming and posting -/

/-- The entry on its way becomes the agent's newest claim (R63). -/
theorem EntryLawWith.claimed {u : State} {a : AgentId} {e : EntryId} {x : Agent} (h : EntryLawWith [e] u)
    (claims : x.claims = (u.agent a).claims ++ [e]) (place : (u.entry e).place = .claimed)
    (claimant : (u.entry e).claimant = some a) : EntryLaw (u.setAgent a x) := by
  have live := liveEntries_setAgent (s := u) (a := a) (x := x)
    (claims ▸ List.perm_append_singleton e _)
  refine h.join ((live.append_left _).trans List.perm_middle) (fun _ _ => rfl) (fun _ => .inl)
    (fun _ _ => .inl) (fun _ _ => .inl) fun b d hd => ?_
  rw [State.setAgent_agent] at hd
  split at hd
  · rename_i hb
    subst hb
    rw [claims] at hd
    exact (List.mem_append.mp hd).imp id fun hd => ⟨List.mem_singleton.mp hd, place, claimant⟩
  · exact .inl hd

theorem SameEntries.joinDeadlines (e : EntryId) (s : State) : SameEntries s (joinDeadlines e s) := by
  unfold Machine.joinDeadlines
  split <;> exact .of_records

theorem EntryLaw.claimEntry {s : State} {a : AgentId} {q : QueueId} {e : EntryId} (h : EntryLaw s)
    (front : (s.queue q).front = some e) : EntryLaw (claimEntry a q e s) := by
  unfold Machine.claimEntry
  dsimp only
  generalize hx : ({ s.entry e with
    place := .claimed, claimant := some a, deadline := deadlineAt _ _ } : Entry) = x
  have joined : EntryLawWith [e]
      (Machine.joinDeadlines e ((s.setQueue q (s.queue q).popFront).setEntry e x)) :=
    ((h.popFront front).setEntry x).of_same (.joinDeadlines ..)
  have entry :
      (Machine.joinDeadlines e ((s.setQueue q (s.queue q).popFront).setEntry e x)).entry e = x := by
    rw [joinDeadlines_entry, State.setEntry_entry_self]
  refine joined.claimed rfl ?_ ?_
  · rw [entry, ← hx]
  · rw [entry, ← hx]

theorem EntryLaw.createEntry {s : State} (h : EntryLaw s) (f : FrameIdx) (urgent : Bool) (q : QueueId) :
    EntryLaw (createEntry f urgent q s) := by
  unfold Machine.createEntry
  split
  · exact h
  · rename_i e rest free
    have taken : EntryLawWith [e] { s with freeEntries := rest } := by
      refine h.leave ?_ (fun _ _ => rfl) (fun d hd => ?_) (fun _ _ => id) (fun _ _ => id) fun _ _ => id
      · rw [entryLists, free]; exact .refl _
      · rw [free]; exact List.mem_cons_of_mem _ hd
    exact taken.queued rfl rfl (.inr rfl)

theorem EntryLaw.createEntries (f : FrameIdx) (urgent : Bool) (qs : List QueueId) :
    ∀ {s : State}, EntryLaw s → EntryLaw (qs.foldl (fun s q => Machine.createEntry f urgent q s) s) := by
  induction qs with
  | nil => exact id
  | cons q qs ih => exact fun h => ih (h.createEntry f urgent q)

theorem EntryLaw.postFrame {s : State} (h : EntryLaw s) (a : AgentId) (f : FrameIdx)
    (qs : List QueueId) : EntryLaw (postFrame a f qs s) := by
  refine EntryLaw.of_same ?_ (Quiet.unbind ..).toSameEntries
  refine EntryLaw.of_same ?_ (.setAgent rfl)
  exact EntryLaw.createEntries f _ qs (h.of_same .of_records)

/-! ## An agent that is OFFLINE has nothing -/

/-- R108, R113, R122: an OFFLINE agent holds no frame and has no claim. -/
def OfflineIdle (s : State) : Prop :=
  ∀ a, (s.agent a).state = .offline → (s.agent a).held = [] ∧ (s.agent a).claims = []

theorem AgentLaw.offlineIdle {s : State} (h : AgentLaw s) : OfflineIdle s :=
  fun a => (h a).offline_empty

theorem OfflineIdle.of_quiet {s t : State} (h : OfflineIdle s) (k : Quiet s t) : OfflineIdle t := by
  intro a ha
  rw [k.held, k.claims]
  exact (k.offline a ha).elim (h a) id

theorem OfflineIdle.setAgent {s : State} (h : OfflineIdle s) {a : AgentId} {x : Agent}
    (idle : x.state = .offline → x.held = [] ∧ x.claims = []) : OfflineIdle (s.setAgent a x) := by
  intro b hb
  rw [State.setAgent_agent] at hb ⊢
  split at hb
  · rename_i e; rw [if_pos e]; exact idle hb
  · rename_i e; rw [if_neg e]; exact h b hb

/-- The law speaks of the agents alone. -/
theorem OfflineIdle.of_agents {s t : State} (h : OfflineIdle s) (agents : t.agents = s.agents) :
    OfflineIdle t := by
  intro a
  rw [State.agent, agents]
  exact h a

theorem OfflineIdle.endClaim {s : State} (h : OfflineIdle s) (a : AgentId) (e : EntryId) :
    OfflineIdle (endClaim a e s) := by
  have left : OfflineIdle (s.setAgent a { s.agent a with claims := (s.agent a).claims.erase e }) :=
    h.setAgent fun ho => ⟨(h a ho).1, by rw [(h a ho).2]; rfl⟩
  exact left.of_agents (by rw [endClaim_eq]; rfl)

theorem OfflineIdle.leaveHeld {s : State} (h : OfflineIdle s) (a : AgentId) (f : FrameIdx) :
    OfflineIdle (leaveHeld a f s) :=
  h.setAgent fun ho => ⟨by rw [(h a ho).1]; rfl, (h a ho).2⟩

theorem createEntries_agents (f : FrameIdx) (urgent : Bool) (qs : List QueueId) : ∀ s : State,
    (qs.foldl (fun s q => createEntry f urgent q s) s).agents = s.agents := by
  induction qs with
  | nil => exact fun _ => rfl
  | cons q qs ih =>
    intro s
    rw [List.foldl_cons, ih]
    unfold createEntry
    split <;> rfl

theorem dropReference_agents (f : FrameIdx) (s : State) : (dropReference f s).agents = s.agents := by
  rw [dropReference_eq]
  split
  · rw [freePath_eq]; rfl
  · rfl

theorem TakenOff.offlineIdle {s u : State} {e : EntryId} (off : TakenOff s u e) (h : OfflineIdle s) :
    OfflineIdle u := by
  cases off with
  | claim a _ ended => exact (h.endClaim a e).of_quiet ended
  | front q _ popped => exact (h.of_agents rfl : OfflineIdle (s.setQueue q _)).of_quiet popped

/-- Every move keeps an OFFLINE agent without frames and claims. -/
theorem Move.keeps_offlineIdle {s t : State} (m : Move s t) (h : OfflineIdle s) : OfflineIdle t := by
  cases m with
  | quiet k => exact h.of_quiet k
  | attach => exact h.setAgent fun _ => ⟨rfl, rfl⟩
  | alloc active => exact h.setAgent fun ho => absurd ho active
  | @giveBack a f =>
    refine (h.leaveHeld a f).of_agents ?_
    rw [Machine.giveBack, freePath_eq]
    rfl
  | @post a f qs =>
    refine OfflineIdle.of_quiet ?_ (.unbind ..)
    refine OfflineIdle.leaveHeld ?_ a f
    exact h.of_agents (createEntries_agents ..)
  | @claim a q e active =>
    have claimed : (claimEntry a q e s).agents = (s.setAgent a ((claimEntry a q e s).agent a)).agents := by
      rw [claimEntry_eq]
      simp [State.agent, State.setAgent]
    refine OfflineIdle.of_agents (h.setAgent fun ho => absurd ho ?_) claimed
    rw [claimEntry_eq]
    simpa [State.agent] using active
  | requeue _ ended => exact ((h.endClaim _ _).of_quiet ended).of_agents rfl
  | @drop u v e off freed =>
    have free : OfflineIdle (freeEntry e u) := (off.offlineIdle h).of_agents rfl
    exact (free.of_quiet freed).of_agents (dropReference_agents ..)
  | @take u a e active _ _ freed =>
    have hu : OfflineIdle u := freed ▸ (h.endClaim a e).of_agents rfl
    have state : (u.agent a).state = (s.agent a).state := by
      have ended := endClaim_agent a a e s
      rw [if_pos rfl] at ended
      rw [freed]
      change ((endClaim a e s).agent a).state = _
      rw [ended]
    exact OfflineIdle.setAgent (hu.of_agents rfl) fun ho => absurd (state.symm.trans ho) active
  | empty empty => exact fun a _ => empty.agent a
  | memory | scrub | define | format | build | formatted | initialised => exact h.of_agents rfl

theorem Emptied.live {t : State} (h : Emptied t) : liveEntries t = [] := by
  simp [liveEntries, (h.queue _).1, (h.queue _).2, (h.agent _).2]

theorem Emptied.entryLaw {t : State} (h : Emptied t) : EntryLaw t where
  once := by rw [entryLists, h.live, List.append_nil, h.freeEntries]
  free_place e _ := h.entry e
  urgent_place q e he := by rw [(h.queue q).1] at he; cases he
  normal_place q e he := by rw [(h.queue q).2] at he; cases he
  claimed_place a e he := by rw [(h.agent a).2] at he; cases he

/-- Every move keeps the law of the entries. -/
theorem Move.keeps_entryLaw {s t : State} (m : Move s t) (idle : OfflineIdle s) (h : EntryLaw s) :
    EntryLaw t := by
  cases m with
  | quiet k => exact h.of_same k.toSameEntries
  | @attach a offline => exact h.of_same (.setAgent (idle a offline).2.symm)
  | alloc => exact h.of_same (.after (.allocFrame ..) .of_records)
  | giveBack => exact h.of_same (.giveBack ..)
  | post => exact h.postFrame _ _ _
  | claim _ front => exact h.claimEntry front
  | @requeue u a e x y claimed ended place claimant _ _ joined =>
    have off : TakenOff s u e := .claim a claimed ended
    exact (off.entryLaw h).queued place claimant joined
  | drop off freed =>
    exact (((off.entryLaw h).freeEntry (off.claimant h)).of_same freed.toSameEntries).of_same
      (.dropReference ..)
  | @take u a e _ claimed _ freed =>
    have hu : EntryLaw u := freed ▸ (h.endClaim claimed).freeEntry (by rw [endClaim_entry, if_pos rfl])
    exact hu.of_same (.after (.setAgent rfl) .of_records)
  | empty empty => exact empty.entryLaw
  | memory | scrub | define | format | build | formatted | initialised => exact h.of_same .of_records

end Sys2Proof.Machine

end

/-!
The law of the references. Its half about frames speaks of the entries only through how many of them refer to
each frame (`FramesSound s n`); a command takes a frame off its list (`Loose f n s`), writes its record, and puts
it on another list. Its other half is that at most one entry of a home queue refers to a frame (`OneAQueue`).
-/

section

-- Taken one after the other, the proofs need one thread (see Tests/Slice0.lean).
set_option Elab.async false

namespace Sys2Proof.Machine

/-! ## The references of the entries -/

/-- How many of the entries in use, and of those of `l`, refer to a frame. -/
def refCount (l : List EntryId) (s : State) (f : FrameIdx) : Nat :=
  (l ++ liveEntries s).countP fun e => (s.entry e).frame == f

/-- At most one entry of a home queue refers to a frame (R29). -/
def OneAQueue (s : State) : Prop :=
  ∀ x ∈ liveEntries s, ∀ y ∈ liveEntries s,
    (s.entry x).home = (s.entry y).home → (s.entry x).frame = (s.entry y).frame → x = y

/-- The same entries in use, with the same frames, refer to each frame as often. -/
theorem refCount_congr {l l' : List EntryId} {s t : State}
    (perm : (l' ++ liveEntries t).Perm (l ++ liveEntries s))
    (frame : ∀ e ∈ l ++ liveEntries s, (t.entry e).frame = (s.entry e).frame) :
    refCount l' t = refCount l s := by
  funext f
  refine (perm.countP_eq _).trans (List.countP_congr fun e he => ?_)
  rw [frame e he]

theorem refCount_cons (e : EntryId) (l : List EntryId) (s : State) (f : FrameIdx) :
    refCount (e :: l) s f = refCount l s f + if (s.entry e).frame = f then 1 else 0 := by
  simp [refCount, List.countP_cons]

theorem SameEntries.refCount {s t : State} (h : SameEntries s t) (l : List EntryId) :
    refCount l t = refCount l s :=
  refCount_congr (by rw [h.liveEntries]) fun e _ => h.frame e

/-- A frame that no entry refers to. -/
theorem refCount_eq_zero {s : State} {f : FrameIdx} :
    refCount [] s f = 0 ↔ ∀ e ∈ liveEntries s, (s.entry e).frame ≠ f := by
  simp [refCount, List.countP_eq_zero]

theorem OneAQueue.congr {s t : State} (h : OneAQueue s)
    (sub : ∀ e ∈ liveEntries t, e ∈ liveEntries s ∧ (t.entry e).frame = (s.entry e).frame ∧
      (t.entry e).home = (s.entry e).home) : OneAQueue t := by
  intro x hx y hy home frame
  obtain ⟨mx, fx, ox⟩ := sub x hx
  obtain ⟨my, fy, oy⟩ := sub y hy
  exact h x mx y my (by rw [← ox, ← oy, home]) (by rw [← fx, ← fy, frame])

theorem OneAQueue.of_same {s t : State} (h : OneAQueue s) (k : SameEntries s t) : OneAQueue t :=
  h.congr fun e he => ⟨k.liveEntries ▸ he, k.frame e, by rw [k.entry e]⟩

/-! ## Frames and their lists -/

/-- What holds of the record of a frame that `k` entries refer to (R5). -/
structure RecordSound (x : Frame) (k : Nat) : Prop where
  counted : x.refs = k + if x.state = .held then 1 else 0
  held_alone : x.state = .held → x.refs = 1
  zero : x.refs = 0 ↔ x.state = .free ∨ x.state = .scrub
  holder_present : x.holder.isSome = true ↔ x.state = .held

/-- A frame that `k` entries refer to has a sound record, and stands on the list of its state (R10, R16, R115). -/
structure FrameSound (s : State) (f : FrameIdx) (k : Nat) : Prop where
  record : RecordSound (s.frame f) k
  held_list : ∀ a, f ∈ (s.agent a).held ↔ (s.frame f).state = .held ∧ (s.frame f).holder = some a
  free_list : ∀ p, f ∈ s.freeList p ↔
    f.val < s.built ∧ (s.frame f).pool = p ∧ (s.frame f).state = .free
  scrub_list : f ∈ s.scrubList ↔ (s.frame f).state = .scrub

/-- No list holds a frame twice. -/
structure ListsOnce (s : State) : Prop where
  held_once : ∀ a, (s.agent a).held.Nodup
  free_once : ∀ p, (s.freeList p).Nodup
  scrub_once : s.scrubList.Nodup

/-- Every frame is sound, `n f` being the number of entries that refer to frame `f`. -/
structure FramesSound (s : State) (n : FrameIdx → Nat) : Prop where
  frame : ∀ f, FrameSound s f (n f)
  once : ListsOnce s

theorem referenceLaw_iff (s : State) :
    ReferenceLaw s ↔ FramesSound s (refCount [] s) ∧ OneAQueue s := by
  constructor
  · intro h
    exact ⟨⟨fun f => ⟨⟨h.counted f, h.held_alone f, h.zero f, h.holder_present f⟩,
      fun a => h.held_list a f, fun p => h.free_list p f, h.scrub_list f⟩,
      h.held_once, h.free_once, h.scrub_once⟩, h.one_a_queue⟩
  · rintro ⟨h, one⟩
    exact
      { counted := fun f => (h.frame f).record.counted
        held_alone := fun f => (h.frame f).record.held_alone
        zero := fun f => (h.frame f).record.zero
        holder_present := fun f => (h.frame f).record.holder_present
        held_list := fun a f => (h.frame f).held_list a
        held_once := h.once.held_once
        free_list := fun p f => (h.frame f).free_list p
        free_once := h.once.free_once
        scrub_list := fun f => (h.frame f).scrub_list
        scrub_once := h.once.scrub_once
        one_a_queue := one }

/-! ### Records -/

theorem RecordSound.held {x : Frame} {k : Nat} (h : RecordSound x k) (state : x.state = .held) : k = 0 := by
  have counted := h.counted
  have alone := h.held_alone state
  rw [if_pos state] at counted
  omega

theorem RecordSound.idle {x : Frame} {k : Nat} (h : RecordSound x k)
    (state : x.state = .free ∨ x.state = .scrub) : k = 0 ∧ x.refs = 0 ∧ x.holder = none := by
  have counted := h.counted
  have zero := h.zero.mpr state
  have holder : ¬x.holder.isSome = true := fun c => by
    have held := h.holder_present.mp c
    rcases state with state | state <;> rw [state] at held <;> cases held
  exact ⟨by omega, zero, by simpa using holder⟩

/-- A frame that an entry refers to is POSTED. -/
theorem RecordSound.posted {x : Frame} {k : Nat} (h : RecordSound x k) (pos : 0 < k) :
    x.state = .posted ∧ x.refs = k ∧ x.holder = none := by
  have notHeld : x.state ≠ .held := fun c => by have := h.held c; omega
  have counted := h.counted
  rw [if_neg notHeld] at counted
  have notIdle : ¬(x.state = .free ∨ x.state = .scrub) := fun c => by have := (h.idle c).1; omega
  have holder : ¬x.holder.isSome = true := fun c => notHeld (h.holder_present.mp c)
  refine ⟨?_, by omega, by simpa using holder⟩
  cases hs : x.state <;> simp_all

theorem RecordSound.of_idle {x : Frame} (state : x.state = .free ∨ x.state = .scrub) (refs : x.refs = 0)
    (holder : x.holder = none) : RecordSound x 0 := by
  have notHeld : x.state ≠ .held := by rcases state with state | state <;> rw [state] <;> exact nofun
  exact
    { counted := by rw [if_neg notHeld]; exact refs
      held_alone := fun c => absurd c notHeld
      zero := ⟨fun _ => state, fun _ => refs⟩
      holder_present := by rw [holder]; exact ⟨nofun, fun c => absurd c notHeld⟩ }

theorem RecordSound.of_held {x : Frame} (state : x.state = .held) (refs : x.refs = 1)
    (holder : x.holder.isSome = true) : RecordSound x 0 where
  counted := by rw [if_pos state, refs]
  held_alone _ := refs
  zero := by rw [refs, state]; exact ⟨nofun, fun c => c.elim nofun nofun⟩
  holder_present := ⟨fun _ => state, fun _ => holder⟩

theorem RecordSound.of_posted {x : Frame} {k : Nat} (state : x.state = .posted) (refs : x.refs = k)
    (pos : 0 < k) (holder : x.holder = none) : RecordSound x k where
  counted := by rw [state]; exact refs
  held_alone c := absurd (state.symm.trans c) nofun
  zero := by
    rw [state]
    exact ⟨fun c => by omega, fun c => c.elim nofun nofun⟩
  holder_present := by
    rw [state, holder]
    exact ⟨nofun, nofun⟩

/-! ### Taking a frame off its list and putting it on another -/

/-- The two states have the same frames on the same lists, frame `f` apart. -/
structure AgreeOff (f : FrameIdx) (s t : State) : Prop where
  frame : ∀ g, g ≠ f → t.frame g = s.frame g
  held : ∀ g, g ≠ f → ∀ a, g ∈ (t.agent a).held ↔ g ∈ (s.agent a).held
  free : ∀ g, g ≠ f → ∀ p, g ∈ t.freeList p ↔ g ∈ s.freeList p
  scrub : ∀ g, g ≠ f → (g ∈ t.scrubList ↔ g ∈ s.scrubList)
  built : ∀ g : FrameIdx, g ≠ f → (g.val < t.built ↔ g.val < s.built)

theorem AgreeOff.refl (f : FrameIdx) (s : State) : AgreeOff f s s :=
  ⟨fun _ _ => rfl, fun _ _ _ => .rfl, fun _ _ _ => .rfl, fun _ _ => .rfl, fun _ _ => .rfl⟩

/-- Every frame but `f` is sound, and `f` is on no list. -/
structure Loose (f : FrameIdx) (n : FrameIdx → Nat) (s : State) : Prop where
  others : ∀ g, g ≠ f → FrameSound s g (n g)
  once : ListsOnce s
  off_held : ∀ a, f ∉ (s.agent a).held
  off_free : ∀ p, f ∉ s.freeList p
  off_scrub : f ∉ s.scrubList

theorem FrameSound.of_agree {f g : FrameIdx} {k : Nat} {s t : State} (h : FrameSound s g k)
    (agree : AgreeOff f s t) (hg : g ≠ f) : FrameSound t g k where
  record := agree.frame g hg ▸ h.record
  held_list a := by rw [agree.held g hg, agree.frame g hg]; exact h.held_list a
  free_list p := by
    rw [agree.free g hg, agree.built g hg, agree.frame g hg]; exact h.free_list p
  scrub_list := by rw [agree.scrub g hg, agree.frame g hg]; exact h.scrub_list

/-- A frame leaves its list. -/
theorem FramesSound.loosen {f : FrameIdx} {n : FrameIdx → Nat} {s t : State} (h : FramesSound s n)
    (k : AgreeOff f s t) (once : ListsOnce t) (off_held : ∀ a, f ∉ (t.agent a).held)
    (off_free : ∀ p, f ∉ t.freeList p) (off_scrub : f ∉ t.scrubList) : Loose f n t :=
  ⟨fun g hg => (h.frame g).of_agree k hg, once, off_held, off_free, off_scrub⟩

/-- The frame joins the list of its state. -/
theorem Loose.settle {f : FrameIdx} {n : FrameIdx → Nat} {s t : State} (h : Loose f n s)
    (k : AgreeOff f s t) (once : ListsOnce t) (own : FrameSound t f (n f)) : FramesSound t n where
  frame g := by
    by_cases hg : g = f
    · rw [hg]; exact own
    · exact (h.others g hg).of_agree k hg
  once := once

/-- How many entries refer to the frame itself is of no account while it is on no list. -/
theorem Loose.recount {f : FrameIdx} {n m : FrameIdx → Nat} {s : State} (h : Loose f n s)
    (same : ∀ g, g ≠ f → m g = n g) : Loose f m s :=
  { h with others := fun g hg => same g hg ▸ h.others g hg }

theorem Loose.setFrame {f : FrameIdx} {n : FrameIdx → Nat} {s : State} (h : Loose f n s) (x : Frame) :
    Loose f n (s.setFrame f x) :=
  { h with
    others := fun g hg => (h.others g hg).of_agree
      { AgreeOff.refl f s with frame := fun g hg => by rw [State.setFrame_frame, if_neg hg] } hg
    once := ⟨h.once.held_once, h.once.free_once, h.once.scrub_once⟩ }

theorem SameFrames.listsOnce {s t : State} (h : SameFrames s t) (once : ListsOnce s) : ListsOnce t where
  held_once a := by rw [h.held]; exact once.held_once a
  free_once p := by rw [State.freeList, h.freeLists]; exact once.free_once p
  scrub_once := by rw [h.scrubList]; exact once.scrub_once

theorem FramesSound.of_same {n : FrameIdx → Nat} {s t : State} (h : FramesSound s n)
    (k : SameFrames s t) : FramesSound t n where
  frame f := by
    have frame : t.frame f = s.frame f := by rw [State.frame, k.frames]; rfl
    exact
      { record := frame ▸ (h.frame f).record
        held_list := fun a => by rw [k.held, frame]; exact (h.frame f).held_list a
        free_list := fun p => by
          rw [State.freeList, k.freeLists, k.built, frame]; exact (h.frame f).free_list p
        scrub_list := by rw [k.scrubList, frame]; exact (h.frame f).scrub_list }
  once := k.listsOnce h.once

/-- An update that leaves the frames, their lists and the agents. -/
theorem SameFrames.of_records {s t : State} (frames : t.frames = s.frames := by rfl)
    (freeLists : t.freeLists = s.freeLists := by rfl) (scrubList : t.scrubList = s.scrubList := by rfl)
    (built : t.built = s.built := by rfl) (agents : t.agents = s.agents := by rfl) : SameFrames s t where
  frames := frames
  freeLists := freeLists
  scrubList := scrubList
  built := built
  held a := by rw [State.agent, agents]; rfl

/-- `SameFrames.trans` with the last change first. -/
theorem SameFrames.after {s t u : State} (k : SameFrames t u) (h : SameFrames s t) : SameFrames s u :=
  h.trans k

theorem SameFrames.setAgent {s : State} {a : AgentId} {x : Agent} (held : x.held = (s.agent a).held) :
    SameFrames s (s.setAgent a x) :=
  { (SameFrames.of_records : SameFrames s s) with
    held := fun b => by rw [State.setAgent_agent]; split <;> simp_all }

/-! ### Off a list -/

/-- A HELD frame leaves its holder's list. -/
theorem FramesSound.leaveHeld {f : FrameIdx} {n : FrameIdx → Nat} {s : State} {a : AgentId}
    (h : FramesSound s n) (held : holds s a f = true) : Loose f n (leaveHeld a f s) := by
  obtain ⟨state, holder⟩ := holds_spec held
  have agent (b : AgentId) : ((Machine.leaveHeld a f s).agent b).held =
      if b = a then (s.agent a).held.erase f else (s.agent b).held := by
    rw [Machine.leaveHeld, State.setAgent_agent]
    split <;> rfl
  refine h.loosen { AgreeOff.refl f s with held := fun g hg b => ?_ }
    ⟨fun b => ?_, h.once.free_once, h.once.scrub_once⟩ (fun b hb => ?_) (fun p hp => ?_) fun hs => ?_
  · rw [agent]
    split
    · rename_i e; rw [e]; exact List.mem_erase_of_ne hg
    · exact .rfl
  · rw [agent]
    split
    · exact (h.once.held_once a).erase f
    · exact h.once.held_once b
  · rw [agent] at hb
    split at hb
    · exact (h.once.held_once a).not_mem_erase hb
    · rename_i ne
      exact ne (Option.some.inj ((((h.frame f).held_list b).mp hb).2.symm.trans holder))
  · exact absurd (state.symm.trans (((h.frame f).free_list p).mp hp).2.2) nofun
  · exact absurd (state.symm.trans ((h.frame f).scrub_list.mp hs)) nofun

/-- The front frame leaves a free list. -/
theorem FramesSound.popFree {f : FrameIdx} {n : FrameIdx → Nat} {s : State} {p : PoolId}
    {rest : List FrameIdx} (h : FramesSound s n) (front : s.freeList p = f :: rest) :
    Loose f n (s.setFreeList p rest) := by
  obtain ⟨-, pool, state⟩ := ((h.frame f).free_list p).mp (front ▸ List.mem_cons_self)
  obtain ⟨notin, nodup⟩ := List.nodup_cons.mp (front ▸ h.once.free_once p)
  refine h.loosen { AgreeOff.refl f s with free := fun g hg r => ?_ }
    ⟨h.once.held_once, fun r => ?_, h.once.scrub_once⟩ (fun a ha => ?_) (fun r hr => ?_) fun hs => ?_
  · rw [State.setFreeList_freeList]
    split
    · rename_i e; rw [e, front, List.mem_cons]; exact (or_iff_right hg).symm
    · exact .rfl
  · rw [State.setFreeList_freeList]
    split
    · exact nodup
    · exact h.once.free_once r
  · exact absurd (state.symm.trans (((h.frame f).held_list a).mp ha).1) nofun
  · rw [State.setFreeList_freeList] at hr
    split at hr
    · exact notin hr
    · rename_i ne
      exact ne ((((h.frame f).free_list r).mp hr).2.1.symm.trans pool)
  · exact absurd (state.symm.trans ((h.frame f).scrub_list.mp hs)) nofun

/-- The front frame leaves the scrub list. -/
theorem FramesSound.popScrub {f : FrameIdx} {n : FrameIdx → Nat} {s : State} {rest : List FrameIdx}
    (h : FramesSound s n) (front : s.scrubList = f :: rest) :
    Loose f n { s with scrubList := rest } := by
  have state := (h.frame f).scrub_list.mp (front ▸ List.mem_cons_self)
  obtain ⟨notin, nodup⟩ := List.nodup_cons.mp (front ▸ h.once.scrub_once)
  refine h.loosen { AgreeOff.refl f s with scrub := fun g hg => ?_ }
    ⟨h.once.held_once, h.once.free_once, nodup⟩ (fun a ha => ?_) (fun p hp => ?_) notin
  · rw [front, List.mem_cons]; exact (or_iff_right hg).symm
  · exact absurd (state.symm.trans (((h.frame f).held_list a).mp ha).1) nofun
  · exact absurd (state.symm.trans (((h.frame f).free_list p).mp hp).2.2) nofun

/-- A POSTED frame is on no list. -/
theorem FramesSound.posted {f : FrameIdx} {n : FrameIdx → Nat} {s : State} (h : FramesSound s n)
    (state : (s.frame f).state = .posted) : Loose f n s := by
  refine h.loosen (.refl f s) h.once (fun a ha => ?_) (fun p hp => ?_) fun hs => ?_
  · exact absurd (state.symm.trans (((h.frame f).held_list a).mp ha).1) nofun
  · exact absurd (state.symm.trans (((h.frame f).free_list p).mp hp).2.2) nofun
  · exact absurd (state.symm.trans ((h.frame f).scrub_list.mp hs)) nofun

/-! ### On a list -/

/-- A frame with a sound record as HELD by the agent joins the agent's held list. -/
theorem Loose.joinHeld {f : FrameIdx} {n : FrameIdx → Nat} {s : State} {a : AgentId} (h : Loose f n s)
    (state : (s.frame f).state = .held) (refs : (s.frame f).refs = 1)
    (holder : (s.frame f).holder = some a) (none : n f = 0) : FramesSound (joinHeld a f s) n := by
  have agent (b : AgentId) : ((Machine.joinHeld a f s).agent b).held =
      if b = a then (s.agent a).held ++ [f] else (s.agent b).held := by
    rw [Machine.joinHeld, State.setAgent_agent]
    split <;> rfl
  have own : FrameSound (Machine.joinHeld a f s) f 0 :=
    { record := .of_held state refs (by rw [Machine.joinHeld, State.setAgent_frame, holder]; rfl)
      held_list := fun b => by
        rw [agent, Machine.joinHeld, State.setAgent_frame, state, holder]
        split
        · rename_i e; simp [e]
        · rename_i ne; simp [h.off_held b, Ne.symm ne]
      free_list := fun p => iff_of_false (h.off_free p) fun c => absurd (state.symm.trans c.2.2) nofun
      scrub_list := iff_of_false h.off_scrub fun c => absurd (state.symm.trans c) nofun }
  refine h.settle { AgreeOff.refl f s with held := fun g hg b => ?_ }
    ⟨fun b => ?_, h.once.free_once, h.once.scrub_once⟩ (none ▸ own)
  · rw [agent]
    split
    · rename_i e; simp [e, hg]
    · exact .rfl
  · rw [agent]
    split
    · exact List.nodup_append.mpr ⟨h.once.held_once a, List.nodup_singleton f, by
        rintro g hg _ hf rfl
        rw [List.mem_singleton.mp hf] at hg
        exact h.off_held a hg⟩
    · exact h.once.held_once b

theorem joinFreeList_frame (f g : FrameIdx) (s : State) : (joinFreeList f s).frame g =
    if g = f then { s.frame f with state := .free, generation := (s.frame f).generation + 1 }
    else s.frame g := Table.get_set ..

theorem joinFreeList_freeList (f : FrameIdx) (p : PoolId) (s : State) :
    (joinFreeList f s).freeList p =
      if p = (s.frame f).pool then s.freeList (s.frame f).pool ++ [f] else s.freeList p :=
  Table.get_set ..

/-- An element joins a list that does not hold it. -/
theorem nodup_concat {α : Type} {l : List α} {x : α} (once : l.Nodup) (notin : x ∉ l) :
    (l ++ [x]).Nodup := by
  rw [(List.perm_append_singleton x l).nodup_iff]
  exact List.nodup_cons.mpr ⟨notin, once⟩

/-- A frame without references joins its free list. -/
theorem Loose.joinFreeList {f : FrameIdx} {n : FrameIdx → Nat} {s : State} (h : Loose f n s)
    (built : f.val < s.built) (refs : (s.frame f).refs = 0) (holder : (s.frame f).holder = none)
    (none : n f = 0) : FramesSound (joinFreeList f s) n := by
  have frame := joinFreeList_frame f f s
  rw [if_pos rfl] at frame
  have own : FrameSound (Machine.joinFreeList f s) f 0 :=
    { record := by rw [frame]; exact .of_idle (.inl rfl) refs holder
      held_list := fun a => by
        rw [frame]
        exact iff_of_false (h.off_held a) fun c => absurd c.1 nofun
      free_list := fun p => by
        rw [joinFreeList_freeList, frame]
        split
        · rename_i e
          exact iff_of_true (List.mem_append_right _ (List.mem_singleton_self f)) ⟨built, e.symm, rfl⟩
        · rename_i ne
          exact iff_of_false (h.off_free p) fun c => ne c.2.1.symm
      scrub_list := by
        rw [frame]
        exact iff_of_false h.off_scrub nofun }
  refine h.settle
    { AgreeOff.refl f s with
      frame := fun g hg => by rw [joinFreeList_frame, if_neg hg]
      free := fun g hg p => ?_ }
    ⟨h.once.held_once, fun p => ?_, h.once.scrub_once⟩ (none ▸ own)
  · rw [joinFreeList_freeList]
    split
    · rename_i e; simp [e, hg]
    · exact .rfl
  · rw [joinFreeList_freeList]
    split
    · exact nodup_concat (h.once.free_once _) (h.off_free _)
    · exact h.once.free_once p

/-- A frame without references joins the scrub list. -/
theorem Loose.joinScrub {f : FrameIdx} {n : FrameIdx → Nat} {s : State} (h : Loose f n s)
    (refs : (s.frame f).refs = 0) (holder : (s.frame f).holder = none) (none : n f = 0) :
    FramesSound { s.setFrame f { s.frame f with state := .scrub } with scrubList := s.scrubList ++ [f] }
      n := by
  generalize ht : { s.setFrame f { s.frame f with state := .scrub } with
    scrubList := s.scrubList ++ [f] } = t
  have other (g : FrameIdx) :
      t.frame g = if g = f then { s.frame f with state := .scrub } else s.frame g := by
    rw [← ht]; exact Table.get_set ..
  have frame := other f
  rw [if_pos rfl] at frame
  have scrubList : t.scrubList = s.scrubList ++ [f] := ht ▸ rfl
  have freeList (p : PoolId) : t.freeList p = s.freeList p := ht ▸ rfl
  have held (a : AgentId) : (t.agent a).held = (s.agent a).held := ht ▸ rfl
  have own : FrameSound t f 0 :=
    { record := by rw [frame]; exact .of_idle (.inr rfl) refs holder
      held_list := fun a => by
        rw [frame, held]
        exact iff_of_false (h.off_held a) fun c => absurd c.1 nofun
      free_list := fun p => by
        rw [frame, freeList]
        exact iff_of_false (h.off_free p) fun c => absurd c.2.2 nofun
      scrub_list := by
        rw [frame, scrubList]
        exact iff_of_true (List.mem_append_right _ (List.mem_singleton_self f)) rfl }
  refine h.settle
    { frame := fun g hg => by rw [other, if_neg hg]
      held := fun g _ a => by rw [held]
      free := fun g _ p => by rw [freeList]
      scrub := fun g hg => by rw [scrubList]; simp [hg]
      built := fun g _ => by rw [← ht]; exact .rfl }
    ⟨fun a => held a ▸ h.once.held_once a, fun p => freeList p ▸ h.once.free_once p,
      scrubList ▸ nodup_concat h.once.scrub_once h.off_scrub⟩ (none ▸ own)

/-- The free path takes a frame without references to the scrub list or to its free list (R15). -/
theorem Loose.freePath {f : FrameIdx} {n : FrameIdx → Nat} {s : State} (h : Loose f n s)
    (built : f.val < s.built) (refs : (s.frame f).refs = 0) (holder : (s.frame f).holder = none)
    (none : n f = 0) : FramesSound (freePath f s) n := by
  unfold Machine.freePath
  dsimp only
  split
  · exact h.joinScrub refs holder none
  · exact (h.joinFreeList built refs holder none).of_same (Quiet.reArmTest ..).toSameFrames

/-- A frame with a sound record as POSTED is where it belongs. -/
theorem Loose.posted {f : FrameIdx} {n : FrameIdx → Nat} {s : State} (h : Loose f n s)
    (state : (s.frame f).state = .posted) (refs : (s.frame f).refs = n f) (pos : 0 < n f)
    (holder : (s.frame f).holder = none) : FramesSound s n := by
  refine h.settle (.refl f s) h.once ⟨.of_posted state refs pos holder, fun a => ?_, fun p => ?_, ?_⟩
  · exact iff_of_false (h.off_held a) fun c => absurd (state.symm.trans c.1) nofun
  · exact iff_of_false (h.off_free p) fun c => absurd (state.symm.trans c.2.2) nofun
  · exact iff_of_false h.off_scrub fun c => absurd (state.symm.trans c) nofun

end Sys2Proof.Machine

end

section

-- Taken one after the other, the proofs need one thread (see Tests/Slice0.lean).
set_option Elab.async false

namespace Sys2Proof.Machine

/-! ## The moves: frames -/

theorem FramesSound.recount {n m : FrameIdx → Nat} {s : State} (h : FramesSound s n) (same : m = n) :
    FramesSound s m := same ▸ h

theorem FramesSound.holds {n : FrameIdx → Nat} {s : State} (h : FramesSound s n) {a : AgentId}
    {f : FrameIdx} (held : f ∈ (s.agent a).held ∨ holds s a f = true) : holds s a f = true :=
  held.elim (fun c => (holds_iff s a f).mpr (((h.frame f).held_list a).mp c)) id

theorem FramesSound.allocFrame {n : FrameIdx → Nat} {s : State} {a : AgentId} {p : PoolId} {f : FrameIdx}
    {rest : List FrameIdx} (h : FramesSound s n) (front : s.freeList p = f :: rest) :
    FramesSound (allocFrame a f (s.setFreeList p rest)) n := by
  have state := (((h.frame f).free_list p).mp (front ▸ List.mem_cons_self)).2.2
  refine ((h.popFree front).setFrame _).joinHeld ?_ ?_ ?_ ((h.frame f).record.idle (.inl state)).1
  all_goals rw [State.setFrame_frame_self]

theorem FramesSound.giveBack {n : FrameIdx → Nat} {s : State} {a : AgentId} {f : FrameIdx}
    (h : FramesSound s n) (held : Machine.holds s a f = true) (built : f.val < s.built) :
    FramesSound (giveBack a f s) n := by
  have none := (h.frame f).record.held (holds_spec held).1
  refine ((h.leaveHeld held).setFrame _).freePath built ?_ ?_ none
  all_goals rw [State.setFrame_frame_self]

/-- A dropped reference: frame `f` has one less (R6). -/
theorem FramesSound.dropReference {n m : FrameIdx → Nat} {s : State} {f : FrameIdx} (h : FramesSound s n)
    (built : f.val < s.built) (own : n f = m f + 1) (others : ∀ g, g ≠ f → m g = n g) :
    FramesSound (dropReference f s) m := by
  obtain ⟨state, refs, holder⟩ := (h.frame f).record.posted (by omega)
  have loose : Loose f m s := (h.posted state).recount others
  rw [dropReference_eq]
  split
  · refine (loose.setFrame _).freePath built ?_ ?_ (by omega)
    · rw [State.setFrame_frame_self]
    · rw [State.setFrame_frame_self]; exact holder
  · refine (loose.setFrame _).posted ?_ ?_ (by omega) ?_
    all_goals rw [State.setFrame_frame_self]
    · exact state
    · change (s.frame f).refs - 1 = m f
      omega
    · exact holder

/-- The one reference to frame `f` becomes a hold (R72). -/
theorem FramesSound.takeFrame {n m : FrameIdx → Nat} {s : State} {a : AgentId} {f : FrameIdx}
    (h : FramesSound s n) (refs : (s.frame f).refs = 1) (own : n f = m f + 1)
    (others : ∀ g, g ≠ f → m g = n g) :
    FramesSound (joinHeld a f (s.setFrame f { s.frame f with state := .held, holder := some a })) m := by
  obtain ⟨state, count, -⟩ := (h.frame f).record.posted (by omega)
  have loose : Loose f m s := (h.posted state).recount others
  refine (loose.setFrame _).joinHeld ?_ ?_ ?_ (by omega)
  all_goals rw [State.setFrame_frame_self]
  exact refs

theorem FramesSound.scrubbed {n : FrameIdx → Nat} {s : State} {f : FrameIdx} {rest : List FrameIdx}
    (h : FramesSound s n) (front : s.scrubList = f :: rest) (built : f.val < s.built) :
    FramesSound (joinFreeList f { s with scrubList := rest }) n := by
  have state := (h.frame f).scrub_list.mp (front ▸ List.mem_cons_self)
  obtain ⟨none, refs, holder⟩ := (h.frame f).record.idle (.inr state)
  exact (h.popScrub front).joinFreeList built refs holder none

/-- The next frame of the build has no references, and is on no list before (R156). -/
theorem FramesSound.enterFrame {n : FrameIdx → Nat} {s : State} {f : FrameIdx} (h : FramesSound s n)
    (next : f.val = s.built) (state : (s.frame f).state = .free) : FramesSound (enterFrame f s) n := by
  have none := ((h.frame f).record.idle (.inl state)).1
  have off_held (a : AgentId) : f ∉ (s.agent a).held := fun c =>
    absurd (state.symm.trans (((h.frame f).held_list a).mp c).1) nofun
  have off_free (p : PoolId) : f ∉ s.freeList p := fun c => by
    have := (((h.frame f).free_list p).mp c).1
    omega
  have off_scrub : f ∉ s.scrubList := fun c =>
    absurd (state.symm.trans ((h.frame f).scrub_list.mp c)) nofun
  have loose : Loose f n s := h.loosen (.refl f s) h.once off_held off_free off_scrub
  have frame := enterFrame_frame f f s
  rw [if_pos rfl] at frame
  have own : FrameSound (Machine.enterFrame f s) f 0 :=
    { record := by rw [frame]; exact .of_idle (.inl rfl) rfl rfl
      held_list := fun a => by
        rw [frame]
        exact iff_of_false (off_held a) fun c => absurd c.1 nofun
      free_list := fun p => by
        rw [enterFrame_freeList, frame]
        split
        · rename_i e
          exact iff_of_true (List.mem_append_right _ (List.mem_singleton_self f))
            ⟨next ▸ Nat.lt_succ_self _, e.symm, rfl⟩
        · rename_i ne
          exact iff_of_false (off_free p) fun c => ne c.2.1.symm
      scrub_list := by
        rw [frame]
        exact iff_of_false off_scrub nofun }
  refine loose.settle
    { AgreeOff.refl f s with
      frame := fun g hg => by rw [enterFrame_frame, if_neg hg]
      free := fun g hg p => ?_
      built := fun g hg => ?_ }
    ⟨h.once.held_once, fun p => ?_, h.once.scrub_once⟩ (none ▸ own)
  · rw [enterFrame_freeList]
    split
    · rename_i e; simp [e, hg]
    · exact .rfl
  · have := Fin.val_ne_of_ne hg
    change g.val < s.built + 1 ↔ g.val < s.built
    omega
  · rw [enterFrame_freeList]
    split
    · exact nodup_concat (h.once.free_once _) (off_free _)
    · exact h.once.free_once p

/-! ## The moves: entries -/

/-- Taking an entry off its list leaves the references as they are, its own among them. -/
theorem TakenOff.refCount {s u : State} {e : EntryId} (off : TakenOff s u e) (h : EntryLaw s) :
    refCount [e] u = refCount [] s :=
  refCount_congr (off.live h).symm fun d _ => (off.entries d).1

theorem SameFrames.endClaim (a : AgentId) (e : EntryId) (s : State) : SameFrames s (endClaim a e s) := by
  have left : SameFrames s (s.setAgent a { s.agent a with claims := (s.agent a).claims.erase e }) :=
    .setAgent rfl
  exact .after .of_records (.after (Quiet.leaveDeadlines e _).toSameFrames left)

theorem TakenOff.sameFrames {s u : State} {e : EntryId} (off : TakenOff s u e) : SameFrames s u := by
  cases off with
  | claim a _ ended => exact .after ended.toSameFrames (.endClaim a e s)
  | front q _ popped => exact .after popped.toSameFrames .of_records

/-- Freeing an entry takes its reference from the count. -/
theorem refCount_freeEntry (u : State) (e : EntryId) (f : FrameIdx) :
    refCount [e] u f = refCount [] (freeEntry e u) f + if (u.entry e).frame = f then 1 else 0 := by
  rw [refCount_cons]
  have same : refCount [] (freeEntry e u) = refCount [] u :=
    refCount_congr (.refl _) fun d _ => by
      rw [freeEntry_entry]
      split
      · rename_i hd; rw [hd]
      · rfl
  rw [same]

/-- The entries in use but the one freed are as they were. -/
theorem TakenOff.oneAQueue {s u : State} {e : EntryId} (off : TakenOff s u e) (h : EntryLaw s)
    (one : OneAQueue s) : OneAQueue u :=
  one.congr fun d hd =>
    ⟨(off.live h).mem_iff.mpr (List.mem_cons_of_mem _ hd), (off.entries d).1, (off.entries d).2⟩

theorem OneAQueue.freeEntry {u : State} (one : OneAQueue u) (e : EntryId) :
    OneAQueue (freeEntry e u) :=
  one.congr fun d hd => by
    refine ⟨hd, ?_⟩
    rw [freeEntry_entry]
    split
    · rename_i e; rw [e]; exact ⟨rfl, rfl⟩
    · exact ⟨rfl, rfl⟩

/-- No entry in use of queue `d` refers to the frame (R29, R88). -/
theorem refersFrom_false {u : State} {e : EntryId} {d : QueueId} {f : FrameIdx} (h : EntryLawWith [e] u)
    (none : refersFrom u d f = false) {x : EntryId} (live : x ∈ liveEntries u)
    (home : (u.entry x).home = d) : (u.entry x).frame ≠ f := by
  simp only [refersFrom, Bool.or_eq_false_iff, List.any_eq_false, List.mem_append, beq_iff_eq,
    List.any_eq_true, Bool.and_eq_true, not_exists, not_and, List.mem_finRange, true_implies] at none
  obtain ⟨queued, claimed⟩ := none
  rcases mem_liveEntries.mp live with ⟨q, hu | hn⟩ | ⟨a, ha⟩
  · have : q = d := (h.urgent_place q x hu).2.1.symm.trans home
    exact queued x (.inl (this ▸ hu))
  · have : q = d := (h.normal_place q x hn).2.1.symm.trans home
    exact queued x (.inr (this ▸ hn))
  · exact claimed a x ha home

/-- An entry joins a queue with its frame, of which it is the queue's only entry. -/
theorem requeue_references {s u : State} {e : EntryId} {x : Entry} {y : Queue} (off : TakenOff s u e)
    (h : EntryLaw s) (one : OneAQueue s) (frame : x.frame = (u.entry e).frame)
    (home : x.home = (u.entry e).home ∨ refersFrom u x.home x.frame = false)
    (joined : y = (u.queue x.home).pushFront x.cls e ∨ y = (u.queue x.home).pushTail x.cls e) :
    refCount [] ((u.setEntry e x).setQueue x.home y) = refCount [] s ∧
      OneAQueue ((u.setEntry e x).setQueue x.home y) := by
  have perm : (y.urgent ++ y.normal).Perm
      (e :: ((u.queue x.home).urgent ++ (u.queue x.home).normal)) := by
    rcases joined with rfl | rfl
    · exact pushFront_perm ..
    · exact pushTail_perm ..
  have live := liveEntries_setQueue (s := u.setEntry e x) (q := x.home) perm
  rw [liveEntries_setEntry] at live
  generalize ht : (u.setEntry e x).setQueue x.home y = t at live
  have entry (d : EntryId) : t.entry d = if d = e then x else u.entry d := by
    rw [← ht]; exact State.setEntry_entry ..
  have frames (d : EntryId) : (t.entry d).frame = (s.entry d).frame := by
    rw [entry, ← (off.entries d).1]
    split
    · rename_i hd; rw [hd, frame]
    · rfl
  have lives : (liveEntries t).Perm (liveEntries s) := live.trans (off.live h).symm
  refine ⟨refCount_congr lives fun d _ => frames d, ?_⟩
  rcases home with home | alone
  · refine one.congr fun d hd => ⟨lives.mem_iff.mp hd, frames d, ?_⟩
    rw [entry, ← (off.entries d).2]
    split
    · rename_i hd; rw [hd, home]
    · rfl
  · have moved := off.entryLaw h
    have rest := off.oneAQueue h one
    have other {d : EntryId} (hd : d ∈ liveEntries t) (ne : d ≠ e) : d ∈ liveEntries u :=
      (List.mem_cons.mp (live.mem_iff.mp hd)).resolve_left ne
    intro c hc d hd homes same
    rw [entry c, entry d] at homes same
    by_cases ec : c = e <;> by_cases ed : d = e
    · rw [ec, ed]
    · rw [if_pos ec, if_neg ed] at homes same
      exact absurd same.symm (refersFrom_false moved alone (other hd ed) homes.symm)
    · rw [if_neg ec, if_pos ed] at homes same
      exact absurd same (refersFrom_false moved alone (other hc ec) homes)
    · rw [if_neg ec, if_neg ed] at homes same
      exact rest c (other hc ec) d (other hd ed) homes same

/-- A claim keeps the entries in use, each with its frame and its home queue. -/
theorem claimEntry_live {s : State} {a : AgentId} {q : QueueId} {e : EntryId}
    (front : (s.queue q).front = some e) :
    (liveEntries (claimEntry a q e s)).Perm (liveEntries s) ∧
      ∀ d, ((claimEntry a q e s).entry d).frame = (s.entry d).frame ∧
        ((claimEntry a q e s).entry d).home = (s.entry d).home := by
  have popped := liveEntries_of_setQueue (popFront_perm front)
  unfold claimEntry
  dsimp only
  generalize hx : ({ s.entry e with
    place := .claimed, claimant := some a, deadline := deadlineAt _ _ } : Entry) = x
  generalize hu : joinDeadlines e ((s.setQueue q (s.queue q).popFront).setEntry e x) = u
  have live : liveEntries u = liveEntries (s.setQueue q (s.queue q).popFront) := by
    rw [← hu, (SameEntries.joinDeadlines ..).liveEntries, liveEntries_setEntry]
  have entry (d : EntryId) : u.entry d = if d = e then x else s.entry d := by
    rw [← hu, joinDeadlines_entry, State.setEntry_entry]
    rfl
  refine ⟨?_, fun d => ?_⟩
  · refine (liveEntries_setAgent (e := e) ?_).trans ?_
    · exact List.perm_append_singleton ..
    · rw [live]; exact popped.symm
  · rw [State.setAgent_entry, entry]
    split
    · rename_i hd; rw [hd, ← hx]; exact ⟨rfl, rfl⟩
    · exact ⟨rfl, rfl⟩

/-- A post adds one reference, from a queue that had none to the frame. -/
theorem createEntry_references {s : State} {f : FrameIdx} {urgent : Bool} {q : QueueId} (h : EntryLaw s)
    (one : OneAQueue s) (room : 0 < s.freeEntries.length)
    (alone : ∀ e ∈ liveEntries s, (s.entry e).frame = f → (s.entry e).home ≠ q) :
    let t := createEntry f urgent q s
    (∀ g, refCount [] t g = refCount [] s g + if f = g then 1 else 0) ∧ OneAQueue t ∧
      t.freeEntries.length + 1 = s.freeEntries.length ∧
      ∀ e ∈ liveEntries t, (t.entry e).frame = f →
        (t.entry e).home = q ∨ e ∈ liveEntries s ∧ (s.entry e).frame = f ∧
          (t.entry e).home = (s.entry e).home := by
  obtain ⟨e, rest, free⟩ := List.exists_cons_of_length_pos room
  intro t
  have made : t = createEntry f urgent q s := rfl
  rw [createEntry_cons f urgent q s e rest free] at made
  have entry (d : EntryId) : t.entry d = if d = e then newEntry f urgent q else s.entry d := by
    rw [made]; exact Table.get_set ..
  have live : (liveEntries t).Perm (e :: liveEntries s) := by
    rw [made]
    exact liveEntries_setQueue (s := s) (q := q) (pushTail_perm ..)
  have notin : e ∉ liveEntries s := fun c =>
    (List.nodup_append.mp h.nodup).2.2 e (free ▸ List.mem_cons_self) e c rfl
  have old {d : EntryId} (hd : d ∈ liveEntries s) : t.entry d = s.entry d := by
    rw [entry, if_neg fun c : d = e => notin (c ▸ hd)]
  have new : t.entry e = newEntry f urgent q := (entry e).trans (if_pos rfl)
  have split {d : EntryId} (hd : d ∈ liveEntries t) : d = e ∨ d ∈ liveEntries s :=
    List.mem_cons.mp (live.mem_iff.mp hd)
  refine ⟨fun g => ?_, ?_, ?_, ?_⟩
  · have count : refCount [] t g = (liveEntries s).countP (fun d => (t.entry d).frame == g) +
        if (t.entry e).frame == g then 1 else 0 := (live.countP_eq _).trans List.countP_cons
    rw [count, new]
    have same : (liveEntries s).countP (fun d => (t.entry d).frame == g) = refCount [] s g :=
      List.countP_congr fun d hd => by rw [old hd]
    rw [same]
    simp [newEntry]
  · intro c hc d hd homes same
    rcases split hc with rfl | hc <;> rcases split hd with rfl | hd
    · rfl
    · rw [new, old hd] at homes same
      exact absurd homes.symm (alone d hd same.symm)
    · rw [new, old hc] at homes same
      exact absurd homes (alone c hc same)
    · rw [old hc, old hd] at homes same
      exact one c hc d hd homes same
  · rw [made, free]; rfl
  · intro d hd frame
    rcases split hd with rfl | hd
    · rw [new]; exact .inl rfl
    · rw [old hd] at frame ⊢; exact .inr ⟨hd, frame, rfl⟩

theorem createEntries_references (f : FrameIdx) (urgent : Bool) : ∀ (qs : List QueueId) (s : State),
    EntryLaw s → OneAQueue s → qs.Nodup → qs.length ≤ s.freeEntries.length →
    (∀ e ∈ liveEntries s, (s.entry e).frame = f → (s.entry e).home ∉ qs) →
    let t := qs.foldl (fun s q => createEntry f urgent q s) s
    (∀ g, refCount [] t g = refCount [] s g + if f = g then qs.length else 0) ∧ OneAQueue t := by
  intro qs
  induction qs with
  | nil => exact fun s _ one _ _ _ => ⟨by simp, one⟩
  | cons q qs ih =>
    intro s h one once room alone
    obtain ⟨notin, once⟩ := List.nodup_cons.mp once
    rw [List.length_cons] at room
    obtain ⟨count, one', free, homes⟩ := createEntry_references (f := f) (urgent := urgent) (q := q) h one
      (by omega) fun e he frame c => alone e he frame (c ▸ List.mem_cons_self)
    obtain ⟨counts, one''⟩ := ih (createEntry f urgent q s) (h.createEntry f urgent q) one' once (by omega)
      fun e he frame c => by
        rcases homes e he frame with home | ⟨old, frame, home⟩
        · exact notin (home ▸ c)
        · exact alone e old frame (home ▸ List.mem_cons_of_mem _ c)
    refine ⟨fun g => ?_, one''⟩
    rw [List.foldl_cons, counts, count, List.length_cons]
    split <;> omega

/-! ## The moves -/

theorem SameFrames.createEntries (f : FrameIdx) (urgent : Bool) (qs : List QueueId) : ∀ s : State,
    SameFrames s (qs.foldl (fun s q => createEntry f urgent q s) s) := by
  induction qs with
  | nil => exact fun _ => .of_records
  | cons q qs ih =>
    intro s
    have created : SameFrames s (createEntry f urgent q s) := by
      unfold createEntry
      split <;> exact .of_records
    exact created.trans (ih _)

theorem SameFrames.claimEntry (a : AgentId) (q : QueueId) (e : EntryId) (s : State) :
    SameFrames s (claimEntry a q e s) := by
  have joined (u : State) : SameFrames u (joinDeadlines e u) := by
    unfold joinDeadlines
    split <;> exact .of_records
  exact .after (.setAgent rfl) (.after (joined _) .of_records)

theorem SameFrames.refl (s : State) : SameFrames s s := .of_records

theorem SameFrames.leaveHeld {s t : State} (h : SameFrames s t) (a : AgentId) (f : FrameIdx) :
    SameFrames (leaveHeld a f s) (leaveHeld a f t) where
  frames := h.frames
  freeLists := h.freeLists
  scrubList := h.scrubList
  built := h.built
  held b := by
    simp only [Machine.leaveHeld, State.setAgent_agent]
    split
    · exact congrArg (·.erase f) (h.held a)
    · exact h.held b

/-- A held frame is posted: it leaves the held list, and has a reference from each queue (R53, R54). -/
theorem ReferenceLaw.postFrame {s : State} {a : AgentId} {f : FrameIdx} {qs : List QueueId}
    (entries : EntryLaw s) (h : ReferenceLaw s) (held : holds s a f = true) (some : qs ≠ [])
    (once : qs.Nodup) (room : qs.length ≤ s.freeEntries.length) : ReferenceLaw (postFrame a f qs s) := by
  obtain ⟨frames, one⟩ := (referenceLaw_iff s).mp h
  have none : refCount [] s f = 0 := (frames.frame f).record.held (holds_spec held).1
  have pos : 0 < qs.length := List.length_pos_iff.mpr some
  let x := postedFrame (s.frame f) a (s.agent a).staging qs.length
  have same : SameEntries s (s.setFrame f x) := .of_records
  obtain ⟨count, oneU⟩ := createEntries_references f (s.agent a).staging.urgent qs (s.setFrame f x)
    (entries.of_same same) (one.of_same same) once room fun e he frame =>
      absurd frame (refCount_eq_zero.mp none e he)
  have created := SameFrames.createEntries f (s.agent a).staging.urgent qs (s.setFrame f x)
  rw [same.refCount] at count
  have unbound : Quiet (leaveHeld a f (qs.foldl (fun t q => createEntry f (s.agent a).staging.urgent q t)
    (s.setFrame f x))) (Machine.postFrame a f qs s) := .unbind ..
  generalize qs.foldl (fun t q => createEntry f (s.agent a).staging.urgent q t) (s.setFrame f x) = u
    at count oneU created unbound
  have others (g : FrameIdx) (hg : g ≠ f) : refCount [] u g = refCount [] s g := by
    rw [count, if_neg (Ne.symm hg), Nat.add_zero]
  have own : refCount [] u f = qs.length := by rw [count, if_pos rfl, none, Nat.zero_add]
  have loose : Loose f (refCount [] u) ((leaveHeld a f s).setFrame f x) :=
    ((frames.leaveHeld held).setFrame x).recount others
  have posted : FramesSound ((leaveHeld a f s).setFrame f x) (refCount [] u) := by
    refine loose.posted ?_ ?_ (own ▸ pos) ?_
    all_goals rw [State.setFrame_frame_self]
    · rfl
    · exact own.symm
    · rfl
  have commute : (leaveHeld a f s).setFrame f x = leaveHeld a f (s.setFrame f x) := rfl
  rw [commute] at posted
  have left : SameEntries u (leaveHeld a f u) := .setAgent rfl
  have left := left.trans unbound.toSameEntries
  exact (referenceLaw_iff _).mpr
    ⟨((posted.of_same (created.leaveHeld a f)).of_same unbound.toSameFrames).recount (left.refCount []),
      oneU.of_same left⟩

theorem Emptied.referenceLaw {t : State} (h : Emptied t) : ReferenceLaw t := by
  have count (f : FrameIdx) : refCount [] t f = 0 := by
    rw [refCount_eq_zero, h.live]
    exact nofun
  refine (referenceLaw_iff t).mpr ⟨⟨fun f => ?_, ?_, fun p => ?_, ?_⟩, ?_⟩
  · obtain ⟨state, refs, holder⟩ := h.frame f
    rw [count]
    refine ⟨.of_idle (.inl state) refs holder, fun a => ?_, fun p => ?_, ?_⟩
    · rw [(h.agent a).1, state]
      exact iff_of_false nofun nofun
    · rw [h.freeList, h.built]
      exact iff_of_false nofun nofun
    · rw [h.scrubList, state]
      exact iff_of_false nofun nofun
  · intro a
    rw [(h.agent a).1]
    exact List.nodup_nil
  · rw [h.freeList]
    exact List.nodup_nil
  · rw [h.scrubList]
    exact List.nodup_nil
  · intro x hx
    rw [h.live] at hx
    cases hx

/-- A move that leaves the entries keeps the law when it keeps the frames sound. -/
theorem ReferenceLaw.of_same_entries {s t : State} (h : ReferenceLaw s) (same : SameEntries s t)
    (frames : FramesSound s (refCount [] s) → FramesSound t (refCount [] s)) : ReferenceLaw t := by
  obtain ⟨sound, one⟩ := (referenceLaw_iff s).mp h
  exact (referenceLaw_iff t).mpr ⟨(frames sound).recount (same.refCount []), one.of_same same⟩

/-- Every move keeps the law of the references. -/
theorem Move.keeps_referenceLaw {s t : State} (m : Move s t) (idle : OfflineIdle s) (entries : EntryLaw s)
    (table : FrameTableLaw s) (h : ReferenceLaw s) : ReferenceLaw t := by
  cases m with
  | quiet k => exact h.of_same_entries k.toSameEntries fun frames => frames.of_same k.toSameFrames
  | @attach a offline =>
    obtain ⟨held, claims⟩ := idle a offline
    exact h.of_same_entries (.setAgent claims.symm) fun frames => frames.of_same (.setAgent held.symm)
  | alloc _ front =>
    exact h.of_same_entries (.after (.allocFrame ..) .of_records) fun frames => frames.allocFrame front
  | giveBack held =>
    refine h.of_same_entries (.giveBack ..) fun frames => ?_
    exact frames.giveBack (frames.holds held) (table.holds_in_table (frames.holds held))
  | post held some once room => exact h.postFrame entries held some once room
  | @claim a q e _ front =>
    obtain ⟨frames, one⟩ := (referenceLaw_iff s).mp h
    obtain ⟨live, kept⟩ := claimEntry_live (a := a) front
    have same : SameFrames s (claimEntry a q e s) := .claimEntry a q e s
    exact (referenceLaw_iff _).mpr
      ⟨(frames.of_same same).recount (refCount_congr live fun d _ => (kept d).1),
        one.congr fun d hd => ⟨live.mem_iff.mp hd, kept d⟩⟩
  | @requeue u a e x y claimed ended _ _ frame home joined =>
    obtain ⟨frames, one⟩ := (referenceLaw_iff s).mp h
    have off : TakenOff s u e := .claim a claimed ended
    obtain ⟨count, oneT⟩ := requeue_references off entries one frame home joined
    exact (referenceLaw_iff _).mpr
      ⟨(frames.of_same (.after .of_records off.sameFrames)).recount count, oneT⟩
  | @drop u v e off freed =>
    obtain ⟨frames, one⟩ := (referenceLaw_iff s).mp h
    have dropped : SameEntries (freeEntry e u) (dropReference (u.entry e).frame v) :=
      .after (.dropReference ..) freed.toSameEntries
    have count (g : FrameIdx) : refCount [] s g = refCount [] (freeEntry e u) g +
        if (u.entry e).frame = g then 1 else 0 := by
      rw [← off.refCount entries, refCount_freeEntry]
    have sound : FramesSound v (refCount [] s) :=
      frames.of_same (.after freed.toSameFrames (.after .of_records off.sameFrames))
    have built : (u.entry e).frame.val < v.built := by
      rw [freed.built, off.frame]
      exact off.sameFrames.built ▸ table.entries_in_table e off.listed
    have frames' := sound.dropReference (m := refCount [] (freeEntry e u)) built
      (by rw [count, if_pos rfl]) fun g hg => by rw [count, if_neg (Ne.symm hg), Nat.add_zero]
    exact (referenceLaw_iff _).mpr
      ⟨frames'.recount (dropped.refCount []),
        ((off.oneAQueue entries one).freeEntry e).of_same dropped⟩
  | @take u a e _ claimed refs freed =>
    obtain ⟨frames, one⟩ := (referenceLaw_iff s).mp h
    have off : TakenOff s (endClaim a e s) e := .claim a (.inl claimed) (.refl _)
    have count (g : FrameIdx) : refCount [] s g = refCount [] u g +
        if (s.entry e).frame = g then 1 else 0 := by
      rw [← off.refCount entries, refCount_freeEntry, off.frame, freed]
    have same : SameFrames s u := freed ▸ .after .of_records (.endClaim a e s)
    have frame : u.frame (s.entry e).frame = s.frame (s.entry e).frame := by
      rw [State.frame, same.frames]; rfl
    have frames' := (frames.of_same same).takeFrame (a := a) (m := refCount [] u) (frame ▸ refs)
      (by rw [count, if_pos rfl]) fun g hg => by rw [count, if_neg (Ne.symm hg), Nat.add_zero]
    have held : SameEntries u (joinHeld a (s.entry e).frame (u.setFrame (s.entry e).frame
        { u.frame (s.entry e).frame with state := .held, holder := some a })) :=
      .after (.setAgent rfl) .of_records
    have oneU : OneAQueue u := freed ▸ (off.oneAQueue entries one).freeEntry e
    exact (referenceLaw_iff _).mpr ⟨frames'.recount (held.refCount []), oneU.of_same held⟩
  | @scrub f rest front =>
    have built : f.val < s.built := table.scrub_in_table f (front ▸ List.mem_cons_self)
    exact h.of_same_entries .of_records fun frames => frames.scrubbed front built
  | @format config =>
    have built : s.built = 0 := table.empty (.inr config)
    exact h.of_same_entries .of_records fun frames => frames.of_same { SameFrames.refl s with built := built.symm }
  | @build f _ next =>
    have state : (s.frame f).state = .free := by
      by_contra c
      have := table.in_table f c
      omega
    exact h.of_same_entries .of_records fun frames => frames.enterFrame next state
  | empty empty => exact empty.referenceLaw
  | memory | define | formatted | initialised =>
    exact h.of_same_entries .of_records fun frames => frames.of_same .of_records

/-- What the law of the references needs of the others, to be kept by a chain of moves. -/
structure ReferencesKept (s : State) : Prop where
  idle : OfflineIdle s
  entries : EntryLaw s
  table : FrameTableLaw s
  references : ReferenceLaw s

theorem Move.keeps_references {s t : State} (m : Move s t) (h : ReferencesKept s) : ReferencesKept t where
  idle := m.keeps_offlineIdle h.idle
  entries := m.keeps_entryLaw h.idle h.entries
  table := m.keeps_frameTableLaw h.table
  references := m.keeps_referenceLaw h.idle h.entries h.table h.references

/-- Settles O57: every move of a step keeps the references, with the entries, the frame table and the OFFLINE
agents as their law needs them. -/
theorem everyStepKeepsReferenceLaw : Obligations.EveryStepKeepsReferenceLaw :=
  fun _ _ entries agents table references h =>
    ((step_moves h).keeps (fun _ _ => Move.keeps_references)
      ⟨agents.offlineIdle, entries, table, references⟩).references

end Sys2Proof.Machine

end

/-!
Frames, pools and handles: what ALLOC, FREE and the scrub unit change (R12, R14 to R18), the answers of the
checks that refuse, the layout of frame memory (R2), and the words that read back (R8, R168).
-/

section

-- Taken one after the other, the proofs need one thread (see Tests/Slice0.lean).
set_option Elab.async false

namespace Sys2Proof.Machine

/-! ## ALLOC -/

/-- The data lines after a read returned on port `p`. -/
theorem State.returns_data (s : State) (p i : Port) (w : Word) :
    (s.returns p w).data i = if i = p then w else s.data i := by
  cases p <;> cases i <;> rfl

/-- What the low-water test says of the pools and the events (R18). -/
def LowWaterTested (s t : State) (p : PoolId) : Prop :=
  if (s.pool p).armed = true ∧ (s.freeList p).length ≤ (s.pool p).lowWater then
    OnlyPool s t p { s.pool p with armed := false } ∧ EventOffered s t (.poolLow p (s.freeList p).length)
  else t.pools = s.pools ∧ t.events = s.events ∧ t.eventsLost = s.eventsLost

/-- The low-water test changes the pools and the events as R18 says, and nothing else. -/
theorem lowWaterTested (p : PoolId) (s : State) : LowWaterTested s (lowWaterTest p s) p ∧
    ∃ pools events lost, lowWaterTest p s =
      { s with pools := pools, events := events, eventsLost := lost } := by
  unfold LowWaterTested lowWaterTest
  dsimp only
  split
  · rw [offerEvent_eq]
    refine ⟨⟨fun r => Table.get_set .., ?_⟩, _, _, _, rfl⟩
    by_cases h : s.events.length < 16 <;> simp [EventOffered, h]
  · exact ⟨⟨rfl, rfl, rfl⟩, _, _, _, rfl⟩

theorem allocRefusal_none {s : State} {a : AgentId} {p : PoolId} {f : FrameIdx} {rest : List FrameIdx}
    (serves : Serves s a) (quota : BelowQuota s a) (count : (s.pool p).count ≠ 0)
    (front : s.freeList p = f :: rest) : allocRefusal s a p = none := by
  have below : atQuota s a = false := decide_eq_false (by omega)
  simp [allocRefusal, firstRefusal_cons, serves.prefix_none, below, count, front, refuseIf]

/-- The record that ALLOC writes (R12). -/
theorem allocFrame_frame (a : AgentId) (f g : FrameIdx) (s : State) : (allocFrame a f s).frame g =
    if g = f then
      { s.frame f with
        state := .held, refs := 1, holder := some a, length := 0, tag := 0, source := a, reply := none,
        urgent := false }
    else s.frame g := Table.get_set ..

theorem allocFrame_agent (a b : AgentId) (f : FrameIdx) (s : State) : (allocFrame a f s).agent b =
    if b = a then { s.agent a with held := (s.agent a).held ++ [f] } else s.agent b := Table.get_set ..

/-- ALLOC whose checks pass allocates the front frame and makes the low-water test (R12). -/
theorem execAlloc_accepted {s : State} {a : AgentId} {p : PoolId} {f : FrameIdx} {rest : List FrameIdx}
    (serves : Serves s a) (quota : BelowQuota s a) (count : (s.pool p).count ≠ 0)
    (front : s.freeList p = f :: rest) :
    let v := lowWaterTest p (allocFrame a f (s.setFreeList p rest))
    exec (.alloc a p) s =
      .next ((v.answer a .ok .alloc (numberWord p.val)).returns (agentPort a) (handleOf v f)) := by
  change execAlloc a p s = _
  rw [execAlloc, readAccess, takeAccess_of_takes serves.portTakes,
    allocRefusal_none serves quota count front, front]

/-- Settles O4: the run of an accepted ALLOC, read field by field. -/
theorem allocTakesOldestFrame : Obligations.AllocTakesOldestFrame := by
  intro s a p f rest serves quota count front
  have run := execAlloc_accepted serves quota count front
  have tested := lowWaterTested p (allocFrame a f (s.setFreeList p rest))
  generalize lowWaterTest p (allocFrame a f (s.setFreeList p rest)) = v at run tested
  obtain ⟨tested, pools, events, lost, only⟩ := tested
  have frame (g : FrameIdx) : v.frame g = (allocFrame a f (s.setFreeList p rest)).frame g := by
    rw [only]; rfl
  have agent (b : AgentId) : v.agent b = (allocFrame a f (s.setFreeList p rest)).agent b := by
    rw [only]; rfl
  have freeList (r : PoolId) : v.freeList r = (s.setFreeList p rest).freeList r := by
    rw [only]; rfl
  have data (i : Port) : v.data i = s.data i := by rw [only]; cases i <;> rfl
  have generation : (v.frame f).generation = (s.frame f).generation := by
    rw [frame, allocFrame_frame, if_pos rfl]; rfl
  refine ⟨_, run, fun g => ?_, fun b => ?_, fun r => ?_, fun i => ?_, ?_, ?_⟩
  · rw [State.returns_frame]
    exact (frame g).trans (allocFrame_frame a f g _)
  · rw [State.returns_agent, State.answer_agent, agent, agent, allocFrame_agent, allocFrame_agent, if_pos rfl]
    split <;> rfl
  · rw [State.returns_freeList]
    exact (freeList r).trans (State.setFreeList_freeList ..)
  · rw [State.returns_data, handleOf, generation]
    exact if_congr .rfl rfl (data i)
  · have length : (allocFrame a f (s.setFreeList p rest)).freeList p = rest :=
      State.setFreeList_freeList_self ..
    unfold LowWaterTested at tested
    rw [length] at tested
    unfold EventOffered OnlyPool
    simp only [State.returns_pools, State.returns_pool, State.returns_events, State.returns_eventsLost]
    exact tested
  · generalize handleOf v f = w
    rw [only]
    cases agentPort a <;> simp only [State.returns, State.answer, allocFrame, joinHeld, State.setAgent,
      State.setFrame, State.setFreeList]

end Sys2Proof.Machine

end

section

-- Taken one after the other, the proofs need one thread (see Tests/Slice0.lean).
set_option Elab.async false

namespace Sys2Proof.Machine

/-! ## FREE and the scrub unit -/

theorem TakesFreePath.congr {s s' t t' : State} {f : FrameIdx} {x : Frame} (h : TakesFreePath s t f x)
    (frames : s'.frames = s.frames) (freeLists : s'.freeLists = s.freeLists)
    (scrubList : s'.scrubList = s.scrubList) (pools : s'.pools = s.pools)
    (frames' : t'.frames = t.frames) (freeLists' : t'.freeLists = t.freeLists)
    (scrubList' : t'.scrubList = t.scrubList) (pools' : t'.pools = t.pools) :
    TakesFreePath s' t' f x := by
  unfold TakesFreePath OnlyFrame OnlyFreeList OnlyPool State.frame State.freeList State.pool at h ⊢
  rw [frames, freeLists, scrubList, pools, frames', freeLists', scrubList', pools']
  exact h

theorem execFree_accepted {s : State} {a : AgentId} {h : Word} (serves : Serves s a) (holds : Holds s a h) :
    exec (.free a h) s =
      .next ((unbind a (handleIndex h) (giveBack a (handleIndex h) s)).answer a .ok .free h) := by
  change execFree a h s = _
  rw [execFree, writeAccess, takeAccess_of_takes serves.portTakes, holdRefusal_none serves holds]

/-- Settles O5: the hold ends, then the free path runs on the frame's record (`takesFreePath`). -/
theorem freeGivesFrameBack : Obligations.FreeGivesFrameBack := by
  intro s a h serves holds
  have run := execFree_accepted serves holds
  generalize handleIndex h = f at run ⊢
  obtain ⟨takes, only⟩ := takesFreePath f { s.frame f with refs := 0, holder := none } (leaveHeld a f s)
  have back : giveBack a f s =
    freePath f ((leaveHeld a f s).setFrame f { s.frame f with refs := 0, holder := none }) := rfl
  rw [back] at run
  generalize freePath f ((leaveHeld a f s).setFrame f { s.frame f with refs := 0, holder := none }) = v
    at run takes only
  have agents : v.agents = (leaveHeld a f s).agents := by
    have agents := congrArg State.agents only
    exact agents
  have agent (b : AgentId) : v.agent b =
      if b = a then { s.agent a with held := (s.agent a).held.erase f } else s.agent b := by
    rw [State.agent, agents]
    exact Table.get_set ..
  have own := agent a
  rw [if_pos rfl] at own
  have bound : boundTo v a f = boundTo s a f := by rw [boundTo, own]; rfl
  refine ⟨_, run, fun b => ?_, ?_, ?_⟩
  · rw [State.answer_agent, unbind_eq, State.setAgent_agent, State.setAgent_agent, bound, own, if_pos rfl]
    split
    · rfl
    · rename_i hb
      rw [agent, if_neg hb]
  · rw [unbind_eq]
    exact takes.congr rfl rfl rfl rfl rfl rfl rfl rfl
  · have freed := congrArg (fun y : State => { y with agents := s.agents }) only
    rw [unbind_eq]
    exact freed

/-- A frame joins its free list, and the pool re-arms if that has brought its free count to the mark (R18). -/
theorem reArmTest_joinFreeList (f : FrameIdx) (s : State) :
    reArmTest (s.frame f).pool (joinFreeList f s) =
      let x := s.frame f
      { s with
        frames := s.frames.set f { x with state := .free, generation := x.generation + 1 }
        freeLists := s.freeLists.set x.pool (s.freeList x.pool ++ [f])
        pools := s.pools.set x.pool
          { s.pool x.pool with
            armed := (s.pool x.pool).armed ||
              decide ((s.pool x.pool).lowWater ≤ (s.freeList x.pool).length + 1) } } := by
  have length : ((joinFreeList f s).freeList (s.frame f).pool).length =
      (s.freeList (s.frame f).pool).length + 1 := by
    rw [joinFreeList_freeList, if_pos rfl, List.length_append, List.length_singleton]
  have pool : (joinFreeList f s).pool (s.frame f).pool = s.pool (s.frame f).pool := rfl
  unfold reArmTest
  rw [length, pool]
  by_cases reached : (s.pool (s.frame f).pool).lowWater ≤ (s.freeList (s.frame f).pool).length + 1
  · simp only [reached, if_true, decide_true, Bool.or_true]
    rfl
  · simp only [reached, if_false, decide_false, Bool.or_false]
    have same : s.pools.set (s.frame f).pool (s.pool (s.frame f).pool) = s.pools := Table.set_get ..
    change _ = { joinFreeList f s with
      pools := s.pools.set (s.frame f).pool (s.pool (s.frame f).pool) }
    rw [same]
    rfl

theorem execScrubCompletion_running {s : State} {f : FrameIdx} {rest : List FrameIdx}
    (running : s.controller = .running) (front : s.scrubList = f :: rest) :
    exec .scrubCompletion s = .next (scrubFrame f s) := by
  change execScrubCompletion s = _
  rw [execScrubCompletion, running, front]

/-- Settles O44: the clear of the bytes (`Memory.read_clear`), then the frame joins its free list. -/
theorem scrubClearsFrontFrame : Obligations.ScrubClearsFrontFrame := by
  intro s f rest running front x
  have run := execScrubCompletion_running running front
  have joined := reArmTest_joinFreeList f
    { s with mem := s.mem.clear (frameBase s f) (sizeOfFrame s f), scrubList := s.scrubList.tail }
  have scrubbed : scrubFrame f s = _ := joined
  refine ⟨_, run, ?_, fun k => ?_, fun g => ?_, fun r => ?_, fun r => ?_, ?_⟩
  all_goals rw [scrubbed]
  · change s.scrubList.tail = rest
    rw [front]
    rfl
  · exact Memory.read_clear ..
  · exact Table.get_set ..
  · exact Table.get_set ..
  · exact Table.get_set ..

end Sys2Proof.Machine

end

section

-- Taken one after the other, the proofs need one thread (see Tests/Slice0.lean).
set_option Elab.async false

namespace Sys2Proof.Machine

/-! ## Refusals -/

section Reads

variable {s : State} {a : AgentId}

/-- Within R114 a sum that is not below the quota has reached it. -/
theorem atQuota_iff (within : (s.agent a).held.length + (s.agent a).claims.length ≤ (s.agent a).quota) :
    atQuota s a = true ↔ (s.agent a).held.length + (s.agent a).claims.length = (s.agent a).quota := by
  rw [atQuota, decide_eq_true_iff]
  omega

theorem atClaimLimit_iff (within : (s.agent a).claims.length ≤ (s.agent a).claimLimit) :
    atClaimLimit s a = true ↔ (s.agent a).claims.length = (s.agent a).claimLimit := by
  rw [atClaimLimit, decide_eq_true_iff]
  omega

theorem front_isNone_iff (x : Queue) : x.front.isNone = true ↔ x.urgent = [] ∧ x.normal = [] := by
  unfold Queue.front
  split
  · rename_i h; simp [h]
  · rename_i h; simp [h]

theorem receivable_iff (x : Queue) : x.receivable = true ↔ x.state = .open ∨ x.state = .draining := by
  simp [Queue.receivable]

/-- Every queue is in the search order (R69). -/
theorem mem_searchOrder (rotation q : QueueId) : q ∈ searchOrder rotation :=
  List.mem_map.mpr ⟨q - (rotation + 1), List.mem_finRange _, add_sub_cancel ..⟩

/-- RECEIVE-ANY finds no queue exactly when there is no candidate (R68, R69). -/
theorem chooseQueue_isNone_iff : (chooseQueue s a).isNone = true ↔
    ∀ q, (s.queue q).consumer = a → (s.queue q).state = .open ∨ (s.queue q).state = .draining →
      (s.queue q).urgent = [] ∧ (s.queue q).normal = [] := by
  have candidates (q : QueueId) : candidate s a q = false ↔
      ((s.queue q).consumer = a → (s.queue q).state = .open ∨ (s.queue q).state = .draining →
        (s.queue q).urgent = [] ∧ (s.queue q).normal = []) := by
    rw [← receivable_iff, ← front_isNone_iff, candidate]
    cases (s.queue q).receivable <;> cases (s.queue q).front <;> simp
  have none : chooseQueue s a = none ↔ ∀ q, candidate s a q = false := by
    simp only [chooseQueue, Option.or_eq_none_iff, List.find?_eq_none, mem_searchOrder, true_implies,
      Bool.not_eq_true, Bool.and_eq_false_iff]
    exact ⟨fun h => h.2, fun h => ⟨fun q => .inl (h q), h⟩⟩
  rw [Option.isNone_iff_eq_none, none]
  exact forall_congr' candidates

/-- ALLOC checks as R12 lists it. -/
theorem allocRefusal_eq (p : PoolId) : allocRefusal s a p =
    (prefixAnswer s a).or
      (if atQuota s a = true then some .quota
      else if (s.pool p).count = 0 ∨ s.freeList p = [] then some .empty else none) := by
  rw [allocRefusal, firstRefusal_cons, commonPrefix_eq]
  simp only [firstRefusal_refuseIf, firstRefusal_nil, Bool.or_eq_true, beq_iff_eq, List.isEmpty_iff]

/-- RECEIVE checks as R64 lists it. -/
theorem receiveRefusal_eq (q : QueueId) : receiveRefusal s a q =
    (prefixAnswer s a).or
      (if (s.queue q).state = .disabled then some .noQueue
      else if (s.queue q).consumer ≠ a then some .notConsumer
      else if (s.queue q).state = .paused then some .queuePaused
      else if (s.queue q).state = .closed then some .queueClosed
      else if (s.queue q).state = .flushing then some .flushing
      else if atQuota s a = true then some .quota
      else if atClaimLimit s a = true then some .claimLimit
      else if (s.queue q).urgent = [] ∧ (s.queue q).normal = [] then some .empty
      else none) := by
  rw [receiveRefusal, firstRefusal_cons, commonPrefix_eq]
  simp only [firstRefusal_refuseIf, firstRefusal_cons (receiveStateRefusal _), firstRefusal_nil,
    beq_iff_eq, bne_iff_ne, front_isNone_iff]
  cases (s.queue q).state <;> simp [receiveStateRefusal]

/-- RECEIVE-ANY checks as R68 lists it. -/
theorem receiveAnyRefusal_eq : receiveAnyRefusal s a =
    (prefixAnswer s a).or
      (if atQuota s a = true then some .quota
      else if atClaimLimit s a = true then some .claimLimit
      else if ∀ q, (s.queue q).consumer = a →
          (s.queue q).state = .open ∨ (s.queue q).state = .draining →
          (s.queue q).urgent = [] ∧ (s.queue q).normal = [] then some .empty
      else none) := by
  rw [receiveAnyRefusal, firstRefusal_cons, commonPrefix_eq]
  simp only [firstRefusal_refuseIf, firstRefusal_nil, chooseQueue_isNone_iff]

variable {code : ResultCode}

theorem execAlloc_refused (takes : PortTakes s (agentPort a)) {p : PoolId}
    (refusal : allocRefusal s a p = some code) : exec (.alloc a p) s =
      .next ((s.answer a code .alloc (BitVec.ofNat 32 p.val)).returns (agentPort a) 0) := by
  change execAlloc a p s = _
  rw [execAlloc, readAccess, takeAccess_of_takes takes, refusal]
  rfl

theorem execReceive_refused (takes : PortTakes s (agentPort a)) {q : QueueId}
    (refusal : receiveRefusal s a q = some code) : exec (.receive a q) s =
      .next ((s.answer a code .receive (BitVec.ofNat 32 q.val)).returns (agentPort a) 0) := by
  change execReceive a q s = _
  rw [execReceive, readAccess, takeAccess_of_takes takes, refusal]
  rfl

theorem execReceiveAny_refused (takes : PortTakes s (agentPort a))
    (refusal : receiveAnyRefusal s a = some code) : exec (.receiveAny a) s =
      .next ((s.answer a code .receiveAny (BitVec.ofNat 32 (s.agent a).rotation.val)).returns
        (agentPort a) 0) := by
  change execReceiveAny a s = _
  rw [execReceiveAny, readAccess, takeAccess_of_takes takes, refusal]
  rfl

end Reads

/-- Settles O6: each read's checks are those of its rule, in its order. -/
theorem readActionsRefused : Obligations.ReadActionsRefused := by
  intro s a takes quota limit
  dsimp only
  simp only [← atQuota_iff quota, ← atClaimLimit_iff limit]
  refine ⟨fun p code h => ?_, fun q code h => ?_, fun code h => ?_⟩
  · exact execAlloc_refused takes ((allocRefusal_eq p).trans h)
  · exact execReceive_refused takes ((receiveRefusal_eq q).trans h)
  · exact execReceiveAny_refused takes (receiveAnyRefusal_eq.trans h)

section Handles

variable {s : State} {a : AgentId} {h : Word}

/-- FREE checks as R14 lists it. -/
theorem holdRefusal_eq : holdRefusal s a h =
    ((prefixAnswer s a).or (handleAnswer s h)).or
      (if (s.frame (handleIndex h)).state = .held ∧ (s.frame (handleIndex h)).holder = some a then none
      else some .notOwner) := by
  rw [holdRefusal, firstRefusal_cons, firstRefusal_cons, commonPrefix_eq, handleCheck_eq,
    firstRefusal_refuseIf, firstRefusal_nil, Option.or_assoc]
  simp only [← holds_iff]
  cases holds s a (handleIndex h) <;> rfl

/-- COMPLETE and RELEASE check as R70 lists it. -/
theorem claimRefusal_eq : claimRefusal s a h =
    ((prefixAnswer s a).or (handleAnswer s h)).or
      (if ∃ e ∈ (s.agent a).claims, (s.entry e).frame = handleIndex h then none else some .notOwner) := by
  have claimed : (∃ e ∈ (s.agent a).claims, (s.entry e).frame = handleIndex h) ↔
      (claimsOn s a (handleIndex h)).isEmpty = false := by
    rw [← Bool.not_eq_true, claimsOn_isEmpty_iff]
    push Not
    rfl
  rw [claimRefusal, firstRefusal_cons, firstRefusal_cons, commonPrefix_eq, handleCheck_eq,
    firstRefusal_refuseIf, firstRefusal_nil, Option.or_assoc]
  simp only [claimed]
  cases (claimsOn s a (handleIndex h)).isEmpty <;> rfl

/-- TAKE checks as R72 lists it. -/
theorem takeRefusal_eq : takeRefusal s a h =
    ((prefixAnswer s a).or (handleAnswer s h)).or
      (if ∃ e ∈ (s.agent a).claims, (s.entry e).frame = handleIndex h then
        if (s.frame (handleIndex h)).refs = 1 then none else some .shared
      else some .notOwner) := by
  rw [takeRefusal, firstRefusal_cons, claimRefusal_eq, firstRefusal_refuseIf, firstRefusal_nil,
    Option.or_assoc]
  refine congrArg (Option.or _) ?_
  split
  · by_cases one : (s.frame (handleIndex h)).refs = 1 <;> simp [one]
  · rfl

end Handles

/-- Settles O7: each command's checks are those of its rule, in its order. -/
theorem handleActionsRefused : Obligations.HandleActionsRefused := by
  intro s a h code takes
  refine ⟨fun first => ?_, fun first => ⟨?_, ?_⟩, fun first => ?_⟩
  · change execFree a h s = _
    rw [execFree, writeAccess, takeAccess_of_takes takes, holdRefusal_eq.trans first]
  · change execComplete a h s = _
    rw [execComplete, writeAccess, takeAccess_of_takes takes, claimRefusal_eq.trans first]
    rfl
  · change execRelease a h s = _
    rw [execRelease, writeAccess, takeAccess_of_takes takes, claimRefusal_eq.trans first]
    rfl
  · change execTake a h s = _
    rw [execTake, writeAccess, takeAccess_of_takes takes, takeRefusal_eq.trans first]
    rfl

end Sys2Proof.Machine

end

section

-- Taken one after the other, the proofs need one thread (see Tests/Slice0.lean).
set_option Elab.async false

/-! ## The layout of frame memory (R2) -/

namespace Sys2Proof.Machine

section Layout

variable (s : State)

/-- The frames of pool `p` among the first `n` indices. -/
def framesBelow (n : Nat) (p : PoolId) : Nat := min (n - poolFirst s p) (s.pool p).count

/-- The bytes of the frames of the first `n` indices. -/
def bytesBelow (n : Nat) : Nat :=
  ((List.finRange 4).map fun p => framesBelow s n p * frameSize (s.pool p).sizeCode).sum

theorem sum_pools (g : PoolId → Nat) : ((List.finRange 4).map g).sum = g 0 + g 1 + g 2 + g 3 := by
  rw [← Fin.sum_univ_def, Fin.sum_univ_four]

theorem sum_poolsBelow (g : PoolId → Nat) (p : PoolId) :
    ((poolsBelow p).map g).sum =
      match p with
      | 0 => 0
      | 1 => g 0
      | 2 => g 0 + g 1
      | 3 => g 0 + g 1 + g 2 := by
  have below : poolsBelow 0 = [] ∧ poolsBelow 1 = [0] ∧ poolsBelow 2 = [0, 1] ∧
      poolsBelow 3 = [0, 1, 2] := by decide
  obtain ⟨below0, below1, below2, below3⟩ := below
  match p with
  | 0 => simp [below0]
  | 1 => simp [below1]
  | 2 => simp [below2]
  | 3 => simp [below3, add_assoc]

variable {s} {n : Nat}

/-- An index below the frame total lies in the range of its pool. -/
theorem poolOfIndex_range (below : n < frameTotal s) :
    poolFirst s (poolOfIndex s n) ≤ n ∧
      n < poolFirst s (poolOfIndex s n) + (s.pool (poolOfIndex s n)).count := by
  have list : List.finRange 4 = [(0 : PoolId), 1, 2, 3] := by decide
  simp only [frameTotal, sum_pools] at below
  have found : poolOfIndex s n =
      if n < (s.pool 0).count then 0
      else if n < (s.pool 0).count + (s.pool 1).count then 1
      else if n < (s.pool 0).count + (s.pool 1).count + (s.pool 2).count then 2
      else 3 := by
    simp only [poolOfIndex, list, poolFirst, List.find?_cons, List.find?_nil, sum_poolsBelow, zero_add]
    split_ifs <;> simp [*]
  rw [found]
  simp only [poolFirst, sum_poolsBelow]
  split_ifs <;> simp <;> omega

/-- The indices of a pool begin where those of the pools below it have ended. -/
theorem poolFirst_add_le {p q : PoolId} (below : q < p) :
    poolFirst s q + (s.pool q).count ≤ poolFirst s p := by
  simp only [poolFirst, sum_poolsBelow]
  match p, q with
  | 1, 0 | 2, 0 | 2, 1 | 3, 0 | 3, 1 | 3, 2 => dsimp only; omega

variable {p : PoolId} (first : poolFirst s p ≤ n) (last : n < poolFirst s p + (s.pool p).count)

include first last

/-- Below an index of pool `p` lie all frames of the pools below `p`, and none of those above. -/
theorem framesBelow_eq (q : PoolId) :
    framesBelow s n q =
      if q < p then (s.pool q).count else if q = p then n - poolFirst s p else 0 := by
  rw [framesBelow]
  rcases lt_trichotomy q p with lt | rfl | gt
  · have := poolFirst_add_le (s := s) lt
    rw [if_pos lt]
    omega
  · rw [if_neg (lt_irrefl q), if_pos rfl]
    omega
  · have := poolFirst_add_le (s := s) gt
    rw [if_neg gt.asymm, if_neg gt.ne']
    omega

/-- The next index is one more frame of its pool, and of no other. -/
theorem framesBelow_succ (q : PoolId) :
    framesBelow s (n + 1) q = framesBelow s n q + if q = p then 1 else 0 := by
  rw [framesBelow, framesBelow]
  rcases lt_trichotomy q p with lt | rfl | gt
  · have := poolFirst_add_le (s := s) lt
    rw [if_neg lt.ne]
    omega
  · rw [if_pos rfl]
    omega
  · have := poolFirst_add_le (s := s) gt
    rw [if_neg gt.ne']
    omega

theorem bytesBelow_eq :
    bytesBelow s n = poolBase s p + (n - poolFirst s p) * frameSize (s.pool p).sizeCode := by
  simp only [bytesBelow, poolBase, framesBelow_eq first last, sum_pools, sum_poolsBelow, poolBytes]
  match p with
  | 0 | 1 | 2 | 3 => simp

theorem bytesBelow_succ :
    bytesBelow s (n + 1) = bytesBelow s n + frameSize (s.pool p).sizeCode := by
  simp only [bytesBelow, framesBelow_succ first last, add_mul, ← Fin.sum_univ_def,
    Finset.sum_add_distrib, ite_mul, one_mul, zero_mul, Finset.sum_ite_eq', Finset.mem_univ, if_true]

omit first last

theorem bytesBelow_le : bytesBelow s n ≤ layoutBytes s := by
  simp only [bytesBelow, layoutBytes, ← Fin.sum_univ_def]
  exact Finset.sum_le_sum fun p _ => Nat.mul_le_mul_right _ (min_le_right ..)

/-- The definitions in use fit frame memory while the table holds a record. -/
theorem FrameTableLaw.layout_fits (l : FrameTableLaw s) (used : 0 < s.built) :
    layoutBytes s ≤ 131072 := by
  cases h : s.controller with
  | init | config => exact absurd (l.empty (by simp [h])) (by omega)
  | formatting | running => exact (l.fits (by simp [h])).2

end Layout

/-- The sum of `g` over the indices below `n`, as the running total `total` of `g`. -/
theorem sum_indicesBelow {N : Nat} (g : Fin N → Nat) (total : Nat → Nat) (zero : total 0 = 0) :
    ∀ n ≤ N, (∀ i : Fin N, i.val < n → total (i.val + 1) = total i.val + g i) →
      ∑ i, (if i.val < n then g i else 0) = total n := by
  intro n
  induction n with
  | zero => simp [zero]
  | succ n ih =>
    intro bound next
    have split (i : Fin N) : (if i.val < n + 1 then g i else 0) =
        (if i.val < n then g i else 0) + if i = ⟨n, bound⟩ then g i else 0 := by
      simp only [Fin.ext_iff]
      split_ifs <;> omega
    simp only [split, Finset.sum_add_distrib, Finset.sum_ite_eq', Finset.mem_univ, if_true]
    rw [ih (by omega) fun i h => next i (by omega), next ⟨n, bound⟩ (by simp)]

/-- Settles O25: the base of a frame is the bytes of the indices below it. -/
theorem framesFollowOneAnother : Obligations.FramesFollowOneAnother := by
  intro s f l built
  have size {g : FrameIdx} (below : g.val < s.built) :
      sizeOfFrame s g = frameSize (s.pool (poolOfIndex s g.val)).sizeCode := by
    rw [sizeOfFrame, l.pools_match g below]
  have next (g : FrameIdx) (below : g.val < s.built) :
      bytesBelow s (g.val + 1) = bytesBelow s g.val + sizeOfFrame s g := by
    obtain ⟨first, last⟩ := poolOfIndex_range (below.trans_le l.progress)
    rw [size below, bytesBelow_succ first last]
  obtain ⟨first, last⟩ := poolOfIndex_range (built.trans_le l.progress)
  have base : frameBase s f = bytesBelow s f.val := by
    rw [bytesBelow_eq first last, frameBase, l.pools_match f built, size built]
  constructor
  · have sum := sum_indicesBelow (sizeOfFrame s) (bytesBelow s) (by simp [bytesBelow, framesBelow])
      f.val f.isLt.le fun g h => next g (h.trans built)
    rw [base, ← sum, Fin.sum_univ_def, List.sum_map_ite]
    simp
  · rw [base, ← next f built]
    exact bytesBelow_le.trans (l.layout_fits (by omega))

end Sys2Proof.Machine

end

section

-- Taken one after the other, the proofs need one thread (see Tests/Slice0.lean).
set_option Elab.async false

/-! ## The state after power-on reset -/

namespace Sys2Proof.Machine

theorem reset_agent (a : AgentId) : State.reset.agent a = .reset := Table.get_fill ..

theorem reset_queue (q : QueueId) : State.reset.queue q = .reset := Table.get_fill ..

theorem reset_entry (e : EntryId) : State.reset.entry e = .reset := Table.get_fill ..

theorem reset_controllerLaw : ControllerLaw State.reset := by
  refine ⟨fun _ => ⟨fun a => ?_, fun q => ?_, rfl, rfl, rfl, rfl⟩, nofun, Nat.zero_le _⟩
  · rw [reset_agent, Agent.reset]
  · rw [reset_queue, Queue.reset]

theorem reset_heldLaw : HeldLaw State.reset
  | .a => ⟨fun _ => rfl, nofun⟩
  | .b => ⟨fun _ => rfl, nofun⟩

theorem reset_agentLaw : AgentLaw State.reset := by
  intro a
  rw [reset_agent]
  constructor <;> simp [Agent.reset]

theorem reset_bindingLaw : BindingLaw State.reset := by
  intro a h bound
  rw [reset_agent] at bound
  cases bound

theorem reset_queueLaw : QueueLaw State.reset := by
  intro q
  rw [reset_queue]
  constructor <;> simp [Queue.reset]

theorem reset_depthLaw : DepthLaw State.reset := by
  have queued (q : QueueId) : queuedCount State.reset q = 0 := by simp [queuedCount, reset_queue, Queue.reset]
  have claims (q : QueueId) : claimCount State.reset q = 0 := by
    simp [claimCount, claimsOfQueue, reset_agent, Agent.reset]
  refine ⟨fun q => ?_, fun q _ => claims q, fun q draining => ?_, fun e he => ?_⟩
  · rw [queued, claims, reset_queue]
    exact Nat.zero_le _
  · rw [reset_queue] at draining
    cases draining
  · rw [reset_emptied.live] at he
    cases he

theorem reset_deadlineLaw : DeadlineLaw State.reset where
  once := List.nodup_nil
  carried e := by
    rw [reset_entry]
    exact iff_of_false nofun nofun
  claimed := nofun
  front := List.prefix_rfl
  due := nofun
  ordered := .nil

/-- Settles O49. -/
theorem resetMeetsEveryLaw : Obligations.ResetMeetsEveryLaw :=
  ⟨⟨.nil, nofun⟩, reset_controllerLaw, reset_heldLaw, reset_agentLaw, reset_bindingLaw, reset_queueLaw,
    reset_emptied.frameTableLaw, reset_emptied.entryLaw, reset_depthLaw, reset_emptied.referenceLaw,
    reset_deadlineLaw⟩

end Sys2Proof.Machine

end

section

-- Taken one after the other, the proofs need one thread (see Tests/Slice0.lean).
set_option Elab.async false

/-! ## Words read back (R8, R167, R168)

Every word is a union of fields, so that each round trip is said bit by bit: a field formed from a word keeps
that word's bits in its range and has no others. -/

namespace Sys2Proof.Machine

section Bits

theorem getLsbD_field (lo width x i : Nat) :
    (field lo width x).getLsbD i =
      (decide (i < 32) && decide (lo ≤ i) && decide (i - lo < width) && x.testBit (i - lo)) := by
  rw [field, BitVec.getLsbD_shiftLeft, BitVec.getLsbD_setWidth, BitVec.getLsbD_ofNat]
  by_cases inside : i < 32
  · have : i - lo < 32 := by omega
    by_cases above : lo ≤ i <;> simp [*, Nat.not_lt.mpr, Nat.lt_of_not_le]
  · simp [inside]

theorem getLsbD_flag {n : Nat} (b : Bool) (i : Nat) (inside : n < 32) :
    (flag n b).getLsbD i = (decide (i = n) && b) := by
  cases b with
  | false => simp [flag]
  | true =>
    rw [flag, if_pos rfl, ← BitVec.twoPow_eq, BitVec.getLsbD_twoPow]
    simp [inside, eq_comm]

/-- A field that holds a bit vector of its width has the vector's bits from `lo` up. -/
theorem getLsbD_field_toNat (lo : Nat) {width : Nat} (x : BitVec width) (i : Nat) :
    (field lo width x.toNat).getLsbD i =
      (decide (i < 32) && decide (lo ≤ i) && x.getLsbD (i - lo)) := by
  rw [getLsbD_field, BitVec.testBit_toNat]
  cases bit : x.getLsbD (i - lo) with
  | false => simp
  | true => simp [BitVec.lt_of_getLsbD bit]

/-- A field formed from a word has that word's bits in its range, and no others. -/
theorem getLsbD_field_extract (w : Word) (lo width i : Nat) :
    (field lo width (w.extractLsb' lo width).toNat).getLsbD i =
      (decide (lo ≤ i ∧ i < lo + width) && w.getLsbD i) := by
  rw [getLsbD_field, BitVec.testBit_toNat, BitVec.getLsbD_extractLsb']
  by_cases above : lo ≤ i
  · rw [Nat.add_sub_cancel' above]
    cases bit : w.getLsbD i with
    | false => simp
    | true =>
      have := BitVec.lt_of_getLsbD bit
      simp [*]
      omega
  · simp [above]

theorem getLsbD_flag_bit (w : Word) {n : Nat} (i : Nat) (inside : n < 32) :
    (flag n (w.getLsbD n)).getLsbD i = (decide (i = n) && w.getLsbD i) := by
  rw [getLsbD_flag _ _ inside]
  by_cases same : i = n <;> simp [same]

/-- A word without the bits of a mask is its part in the fields that the mask leaves. -/
theorem getLsbD_fields {w mask : Word} {defined : Nat → Prop} [DecidablePred defined]
    (clear : w &&& mask = 0) (left : ∀ i < 32, defined i ∨ mask.getLsbD i = true) (i : Nat) :
    (decide (defined i) && w.getLsbD i) = w.getLsbD i := by
  cases bit : w.getLsbD i with
  | false => simp
  | true =>
    have masked := congrArg (·.getLsbD i) clear
    have outside : mask.getLsbD i = false := by simpa [bit] using masked
    simpa [outside] using left i (BitVec.lt_of_getLsbD bit)

end Bits

/-! ## Handles -/

theorem getLsbD_formHandle (f : FrameIdx) (g : BitVec 5) {i : Nat} (inside : i < 32) :
    (formHandle f g).getLsbD i =
      (decide (i = 31) || decide (16 ≤ i) && g.getLsbD (i - 16) || (BitVec.ofFin f : BitVec 10).getLsbD i) := by
  have index := getLsbD_field_toNat 0 (BitVec.ofFin f : BitVec 10) i
  simp only [BitVec.toNat_ofFin] at index
  simp only [formHandle, BitVec.getLsbD_or, getLsbD_flag _ _ (by decide : 31 < 32),
    getLsbD_field_toNat, index]
  simp [inside]

theorem handleIndex_formHandle (f : FrameIdx) (g : BitVec 5) : handleIndex (formHandle f g) = f := by
  have bits : (formHandle f g).extractLsb' 0 10 = (BitVec.ofFin f : BitVec 10) := by
    apply BitVec.eq_of_getLsbD_eq
    intro i inside
    have low : ¬ 16 ≤ i ∧ i ≠ 31 := by omega
    rw [BitVec.getLsbD_extractLsb', Nat.zero_add, getLsbD_formHandle f g (by omega)]
    simp [inside, low]
  rw [handleIndex, bits]

theorem handleGeneration_formHandle (f : FrameIdx) (g : BitVec 5) :
    handleGeneration (formHandle f g) = g := by
  apply BitVec.eq_of_getLsbD_eq
  intro i inside
  have middle : 16 + i ≠ 31 := by omega
  rw [handleGeneration, BitVec.getLsbD_extractLsb', getLsbD_formHandle f g (by omega),
    BitVec.getLsbD_of_ge (BitVec.ofFin f : BitVec 10) (16 + i) (by omega)]
  simp [inside, middle]

theorem handleWellFormed_formHandle (f : FrameIdx) (g : BitVec 5) :
    handleWellFormed (formHandle f g) = true := by
  refine (handleWellFormed_iff _).mpr ⟨?_, BitVec.eq_of_getLsbD_eq fun i inside => ?_,
    BitVec.eq_of_getLsbD_eq fun i inside => ?_⟩
  · rw [getLsbD_formHandle f g (by decide)]
    rfl
  · have middle : 21 + i ≠ 31 := by omega
    rw [BitVec.getLsbD_extractLsb', getLsbD_formHandle f g (by omega),
      BitVec.getLsbD_of_ge (BitVec.ofFin f : BitVec 10) (21 + i) (by omega),
      BitVec.getLsbD_of_ge g (21 + i - 16) (by omega)]
    simp [middle]
  · have low : ¬ 16 ≤ 10 + i ∧ 10 + i ≠ 31 := by omega
    rw [BitVec.getLsbD_extractLsb', getLsbD_formHandle f g (by omega),
      BitVec.getLsbD_of_ge (BitVec.ofFin f : BitVec 10) (10 + i) (by omega)]
    simp [low]

theorem formHandle_of_wellFormed {h : Word} (wf : handleWellFormed h = true) :
    formHandle (handleIndex h) (handleGeneration h) = h := by
  obtain ⟨valid, clear⟩ : h.getLsbD 31 = true ∧ h &&& 0x7FE0FC00#32 = 0 := by
    simpa [handleWellFormed] using wf
  have index : (handleIndex h).val = (h.extractLsb' 0 10).toNat := rfl
  apply BitVec.eq_of_getLsbD_eq
  intro i _
  rw [formHandle, index, handleGeneration, ← valid, ← getLsbD_fields clear
    (defined := fun i => (i = 31 ∨ 16 ≤ i ∧ i < 16 + 5) ∨ 0 ≤ i ∧ i < 0 + 10) (by decide) i]
  simp only [BitVec.getLsbD_or, getLsbD_flag_bit h i (by decide : 31 < 32), getLsbD_field_extract,
    Bool.decide_or, Bool.and_or_distrib_right]

/-! ## Configuration words -/

theorem poolWord_poolOfWord {x y : Pool} {w : Word} (accepted : poolOfWord x w = some y) :
    (poolWord y).extractLsb' 0 31 = w.extractLsb' 0 31 ∧ (poolWord y).getLsbD 31 = x.armed := by
  simp only [poolOfWord, Option.dite_none_right_eq_some, Option.ite_none_right_eq_some,
    Option.some.injEq] at accepted
  obtain ⟨_, ⟨_, _, clear⟩, accepted⟩ := accepted
  subst accepted
  constructor
  · apply BitVec.eq_of_getLsbD_eq
    intro i inside
    have top : i ≠ 31 := by omega
    rw [BitVec.getLsbD_extractLsb', BitVec.getLsbD_extractLsb', Nat.zero_add, ← getLsbD_fields clear
      (defined := fun i =>
        (((0 ≤ i ∧ i < 0 + 3 ∨ 4 ≤ i ∧ i < 4 + 11) ∨ i = 15) ∨ 16 ≤ i ∧ i < 16 + 11) ∨ i = 31)
      (by decide) i]
    simp only [poolWord, BitVec.getLsbD_or, getLsbD_field_extract, top,
      getLsbD_flag_bit w i (by decide : 15 < 32), getLsbD_flag _ i (by decide : 31 < 32),
      Bool.decide_or, Bool.and_or_distrib_right, decide_false, Bool.false_and]
  · simp only [poolWord, BitVec.getLsbD_or, getLsbD_field_extract,
      getLsbD_flag_bit w 31 (by decide : 15 < 32), getLsbD_flag _ 31 (by decide : 31 < 32)]
    simp

theorem queueConfigurationWord_queueOfWord {x y : Queue} {half : Half} {w : Word}
    (accepted : queueOfWord x half w = some y) : queueConfigurationWord y half = w := by
  apply BitVec.eq_of_getLsbD_eq
  intro i _
  cases half with
  | first =>
    simp only [queueOfWord, Option.ite_none_right_eq_some, Option.some.injEq] at accepted
    obtain ⟨clear, accepted⟩ := accepted
    subst accepted
    have consumer : (w.extractLsb' 0 3).toFin.val = (w.extractLsb' 0 3).toNat := rfl
    rw [← getLsbD_fields clear (defined := fun i =>
      ((0 ≤ i ∧ i < 0 + 3 ∨ 4 ≤ i ∧ i < 4 + 3) ∨ 8 ≤ i ∧ i < 8 + 8) ∨ 16 ≤ i ∧ i < 16 + 16)
      (by decide) i]
    simp only [queueConfigurationWord, consumer, BitVec.getLsbD_or, getLsbD_field_extract,
      Bool.decide_or, Bool.and_or_distrib_right]
  | second =>
    simp only [queueOfWord, Option.ite_none_right_eq_some, Option.some.injEq] at accepted
    obtain ⟨⟨_, _, _, _, clear⟩, accepted⟩ := accepted
    subst accepted
    rw [← getLsbD_fields clear (defined := fun i => 0 ≤ i ∧ i < 0 + 11 ∨ 16 ≤ i ∧ i < 16 + 11)
      (by decide) i]
    simp only [queueConfigurationWord, BitVec.getLsbD_or, getLsbD_field_extract,
      Bool.decide_or, Bool.and_or_distrib_right]

theorem agentConfigurationWord_agentOfWord {x y : Agent} {w : Word}
    (accepted : agentOfWord x w = some y) :
    (agentConfigurationWord y).extractLsb' 0 28 = w.extractLsb' 0 28 ∧
      ((agentConfigurationWord y).extractLsb' 28 2).toNat = x.state.number := by
  simp only [agentOfWord, Option.ite_none_right_eq_some, Option.some.injEq] at accepted
  obtain ⟨⟨_, _, _, _, clear⟩, accepted⟩ := accepted
  subst accepted
  constructor
  · apply BitVec.eq_of_getLsbD_eq
    intro i inside
    have low : ¬ 28 ≤ i := by omega
    rw [BitVec.getLsbD_extractLsb', BitVec.getLsbD_extractLsb', Nat.zero_add, ← getLsbD_fields clear
      (defined := fun i =>
        ((0 ≤ i ∧ i < 0 + 11 ∨ 16 ≤ i ∧ i < 16 + 7) ∨ i = 24) ∨ 28 ≤ i ∧ i < 28 + 2)
      (by decide) i]
    simp only [agentConfigurationWord, BitVec.getLsbD_or, getLsbD_field_extract, low,
      getLsbD_flag_bit w i (by decide : 24 < 32), getLsbD_field 28, Bool.decide_or,
      Bool.and_or_distrib_right, decide_false, Bool.false_and, Bool.and_false, false_and]
  · have small : x.state.number < 2 ^ 2 := by cases x.state <;> decide
    have bits : (agentConfigurationWord { x with
        enable := w.getLsbD 24, quota := (w.extractLsb' 0 11).toNat,
        claimLimit := (w.extractLsb' 16 7).toNat }).extractLsb' 28 2 =
          BitVec.ofNat 2 x.state.number := by
      apply BitVec.eq_of_getLsbD_eq
      intro i inside
      have high : 28 + i ≠ 24 ∧ 28 + i < 32 := by omega
      simp only [BitVec.getLsbD_extractLsb', agentConfigurationWord, BitVec.getLsbD_or,
        getLsbD_field_extract, getLsbD_flag_bit w (28 + i) (by decide : 24 < 32), getLsbD_field 28,
        BitVec.getLsbD_ofNat]
      simp [inside, high]
      omega
    rw [bits, BitVec.toNat_ofNat, Nat.mod_eq_of_lt small]

theorem selectionWord_selectionOfWord {y : Option QueueId} {w : Word}
    (accepted : selectionOfWord w = some y) :
    selectionWord y = if w.getLsbD 31 = true then w else 0 := by
  simp only [selectionOfWord, Option.ite_none_right_eq_some, Option.some.injEq] at accepted
  obtain ⟨clear, accepted⟩ := accepted
  subst accepted
  by_cases given : w.getLsbD 31 = true
  · have number : (queueField w 0).val = (w.extractLsb' 0 5).toNat := rfl
    rw [present, if_pos given, if_pos given, selectionWord, number, ← given]
    apply BitVec.eq_of_getLsbD_eq
    intro i _
    rw [← getLsbD_fields clear (defined := fun i => 0 ≤ i ∧ i < 0 + 5 ∨ i = 31) (by decide) i]
    simp only [BitVec.getLsbD_or, getLsbD_field_extract, getLsbD_flag_bit w i (by decide : 31 < 32),
      Bool.decide_or, Bool.and_or_distrib_right]
  · rw [present, if_neg given, if_neg given]
    rfl

theorem prescalerWord_prescalerOfWord {n : Nat} {w : Word} (accepted : prescalerOfWord w = some n) :
    field 0 17 n = w := by
  simp only [prescalerOfWord, Option.ite_none_right_eq_some, Option.some.injEq] at accepted
  obtain ⟨⟨_, most⟩, accepted⟩ := accepted
  subst accepted
  have small : w.toNat < 2 ^ 17 := most.trans_lt (by decide)
  apply BitVec.eq_of_toNat_eq
  rw [field, BitVec.shiftLeft_zero, BitVec.toNat_setWidth, BitVec.toNat_ofNat, Nat.mod_eq_of_lt small,
    Nat.mod_eq_of_lt w.isLt]

theorem enableWord_enableOfWord {b : Bool} {w : Word} (accepted : enableOfWord w = some b) :
    flag 0 b = w := by
  simp only [enableOfWord, Option.ite_none_right_eq_some, Option.some.injEq] at accepted
  obtain ⟨clear, accepted⟩ := accepted
  subst accepted
  apply BitVec.eq_of_getLsbD_eq
  intro i _
  rw [← getLsbD_fields clear (defined := fun i => i = 0) (by decide) i,
    getLsbD_flag_bit w i (by decide)]

/-- Settles O48: word by word. -/
theorem handlesAndConfigurationReadBack : Obligations.HandlesAndConfigurationReadBack :=
  ⟨fun f g => ⟨handleWellFormed_formHandle f g, handleIndex_formHandle f g,
      handleGeneration_formHandle f g⟩,
    fun _ => formHandle_of_wellFormed, fun _ _ _ => poolWord_poolOfWord,
    fun _ _ _ _ => queueConfigurationWord_queueOfWord, fun _ _ _ => agentConfigurationWord_agentOfWord,
    fun _ _ => selectionWord_selectionOfWord, fun _ _ => prescalerWord_prescalerOfWord,
    fun _ _ => enableWord_enableOfWord⟩

end Sys2Proof.Machine

end

/-!
Posting frames: what an accepted POST, POST_TO_GROUP and REPLY changes, and what each answers when a check fails
(R48 to R60). Then ATTACH, and the writes of single registers: staging and Interrupt Enable on an agent page
(R46, R144), and four registers of the control page (R56, R80, R92, R146).
-/

section

-- Taken one after the other, the proofs need one thread (see Tests/Slice0.lean).
set_option Elab.async false

namespace Sys2Proof.Machine

/-! ## What a post changes -/

/-- The entries that a post creates do not depend on the frame records. -/
theorem createEntries_setFrame (f g : FrameIdx) (urgent : Bool) (x : Frame) (qs : List QueueId) (s : State) :
    qs.foldl (fun s q => createEntry f urgent q s) (s.setFrame g x) =
      (qs.foldl (fun s q => createEntry f urgent q s) s).setFrame g x := by
  refine List.foldl_hom (fun s : State => s.setFrame g x) fun t q => ?_
  unfold createEntry
  rw [State.setFrame_freeEntries]
  cases t.freeEntries <;> rfl

theorem boundTo_congr {s t : State} {a : AgentId} (binding : (t.agent a).binding = (s.agent a).binding)
    (f : FrameIdx) : boundTo t a f = boundTo s a f := by rw [boundTo, boundTo, binding]

/-- An accepted post creates its entries, writes the frame's record, ends the hold and the binding, and is
answered OK (R53 to R55). -/
theorem postFrame_answer (a : AgentId) (f : FrameIdx) (qs : List QueueId) (s : State) (k : Action)
    (w : Word) :
    let x := (s.agent a).staging
    (postFrame a f qs s).answer a .ok k w =
      { qs.foldl (fun s q => createEntry f x.urgent q s) s with
        frames := s.frames.set f (postedFrame (s.frame f) a x qs.length)
        agents :=
          s.agents.set a
            { s.agent a with
              held := (s.agent a).held.erase f
              binding := if boundTo s a f = true then none else (s.agent a).binding
              last := { code := .ok, action := k, operand := w } } } := by
  dsimp only
  rw [postFrame, createEntries_setFrame, unbind_eq]
  have frames := (SameFrames.createEntries f (s.agent a).staging.urgent qs s).frames
  have agents := createEntries_agents f (s.agent a).staging.urgent qs s
  generalize qs.foldl (fun t q => createEntry f (s.agent a).staging.urgent q t) s = t at frames agents ⊢
  have agent : t.agent a = s.agent a := congrArg (·.get a) agents
  rw [boundTo_congr (s := s) (by simp [leaveHeld, agent])]
  simp only [State.answer, leaveHeld, State.setAgent_agent_self, State.setFrame_agent, agent]
  simp only [State.setAgent, State.setFrame, frames, agents, Table.set_set]

/-- The record that a destination queue leaves a post with (R54). -/
theorem pushTail_classOf (x : Queue) (urgent : Bool) (e : EntryId) : x.pushTail (classOf urgent) e =
    if urgent = true then { x with urgent := x.urgent ++ [e] } else { x with normal := x.normal ++ [e] } := by
  cases urgent <;> rfl

/-! ## The destinations of a post -/

/-- The group that a number names, if it names one. -/
theorem any_group (n : Nat) (p : GroupId → Bool) :
    ((List.finRange 8).any fun g => decide (g.val = n) && p g) =
      if inRange : n < 8 then p ⟨n, inRange⟩ else false := by
  by_cases inRange : n < 8
  · rw [dif_pos inRange, Bool.eq_iff_iff]
    simp only [List.any_eq_true, List.mem_finRange, true_and, Bool.and_eq_true, decide_eq_true_eq]
    constructor
    · rintro ⟨g, rfl, member⟩
      exact member
    · exact fun member => ⟨⟨n, inRange⟩, rfl, member⟩
  · rw [dif_neg inRange]
    simp only [List.any_eq_false, Bool.and_eq_true, decide_eq_true_eq, not_and]
    intro g _ number
    omega

/-- A post goes to the agent's destinations; with none it is BAD_GROUP (R45, R57). -/
theorem stagedQueues_eq (s : State) (a : AgentId) :
    stagedQueues s a = if destinations s a = [] then none else some (destinations s a) := by
  unfold stagedQueues destinations
  dsimp only
  cases (s.agent a).staging.kind with
  | queue => rfl
  | group =>
    by_cases inRange : (s.agent a).staging.number.toNat < 8
    · simp only [any_group, dif_pos inRange, groupMembers, List.isEmpty_iff]
    · simp only [any_group, dif_neg inRange, List.filter_false, if_true]

theorem stagedQueues_isNone_iff (s : State) (a : AgentId) :
    (stagedQueues s a).isNone = true ↔ destinations s a = [] := by
  rw [stagedQueues_eq]
  split <;> simp [*]

@[simp] theorem stagedQueues_getD (s : State) (a : AgentId) :
    (stagedQueues s a).getD [] = destinations s a := by
  rw [stagedQueues_eq]
  split <;> simp [*]

/-- A post names no queue twice (R57). -/
theorem nodup_destinations (s : State) (a : AgentId) : (destinations s a).Nodup := by
  unfold destinations
  split
  · exact List.nodup_singleton _
  · exact (List.nodup_finRange 32).filter _

/-! ## The accesses -/

/-- A port that takes accesses takes a write. -/
theorem writeAccess_of_takes {s : State} {p : Port} (takes : PortTakes s p) (c : Instr)
    (run : State → State) : writeAccess p c run s = .next (run s) := takeAccess_of_takes takes ..

section Accesses

variable {s : State} {a : AgentId} {h : Word}

/-- POST and POST_TO_GROUP are one write (R48, R57). -/
theorem exec_postCommand (takes : PortTakes s (agentPort a)) :
    exec (postCommand s a h) s = .next (postWrite a h s) := by
  unfold postCommand
  split
  · change execPost a h s = _
    rw [execPost, writeAccess_of_takes takes]
  · change execPostToGroup a h s = _
    rw [execPostToGroup, writeAccess_of_takes takes]

variable {code : ResultCode} {operand : Word}

theorem exec_postCommand_refused (takes : PortTakes s (agentPort a))
    (refusal : postRefusal s a h = some (code, operand)) :
    exec (postCommand s a h) s = .next (s.answer a code .post operand) := by
  rw [exec_postCommand takes, postWrite, refusal]

theorem exec_postCommand_accepted (takes : PortTakes s (agentPort a)) (passes : postRefusal s a h = none) :
    exec (postCommand s a h) s =
      .next ((postFrame a (handleIndex h) (destinations s a) s).answer a .ok .post h) := by
  rw [exec_postCommand takes, postWrite, passes, stagedQueues_getD]

theorem exec_reply_refused (takes : PortTakes s (agentPort a))
    (refusal : replyRefusal s a h ((s.frame (handleIndex h)).reply.getD 0) = some (code, operand)) :
    exec (.reply a h) s = .next (s.answer a code .reply operand) := by
  change execReply a h s = _
  rw [execReply, writeAccess_of_takes takes]
  simp only [refusal]

theorem exec_reply_accepted {q : QueueId} (takes : PortTakes s (agentPort a))
    (reply : (s.frame (handleIndex h)).reply = some q) (passes : replyRefusal s a h q = none) :
    exec (.reply a h) s = .next ((postFrame a (handleIndex h) [q] s).answer a .ok .reply h) := by
  change execReply a h s = _
  rw [execReply, writeAccess_of_takes takes]
  simp only [reply, Option.getD_some, passes]

/-! ## The checks -/

theorem tooLong_eq_false {f : FrameIdx} (fits : (s.agent a).staging.length ≤ sizeOfFrame s f) :
    tooLong s a f = false := decide_eq_false (by omega)

/-- A post passes its checks (R48, R57). -/
theorem postRefusal_none (serves : Serves s a) (holds : Holds s a h)
    (fits : (s.agent a).staging.length ≤ sizeOfFrame s (handleIndex h)) (staged : destinations s a ≠ [])
    (take : ∀ q ∈ destinations s a, TakesPosts s a q)
    (room : (destinations s a).length ≤ s.freeEntries.length) : postRefusal s a h = none := by
  have group : (stagedQueues s a).isNone = false := by
    rwa [← Bool.not_eq_true, stagedQueues_isNone_iff]
  simp [postRefusal, firstRefusal_cons, withHandle, refuseIf, holdRefusal_none serves holds,
    tooLong_eq_false fits, group, destinationsRefusal_none take, room]

/-- A reply passes its checks (R59). -/
theorem replyRefusal_none {q : QueueId} (serves : Serves s a) (holds : Holds s a h)
    (reply : (s.frame (handleIndex h)).reply = some q)
    (fits : (s.agent a).staging.length ≤ sizeOfFrame s (handleIndex h)) (takes : TakesPosts s a q)
    (room : s.freeEntries ≠ []) : replyRefusal s a h q = none := by
  have take : ∀ r ∈ [q], TakesPosts s a r := by simpa using takes
  simp [replyRefusal, firstRefusal_cons, withHandle, refuseIf, holdRefusal_none serves holds, reply,
    tooLong_eq_false fits, destinationsRefusal_none take, room]

end Accesses

/-! ## POST, POST_TO_GROUP and REPLY accepted -/

/-- Settles O8: the run of an accepted post, with the entries that `createEntries_spec` gives. -/
theorem postCreatesEntries : Obligations.PostCreatesEntries := by
  intro s a h serves holds fits staged take room once f x qs
  have run := exec_postCommand_accepted serves.portTakes
    (postRefusal_none serves holds fits staged take room)
  obtain ⟨joined, queues, entries, free, rest⟩ :=
    createEntries_spec f x.urgent qs s room (nodup_destinations s a) once
  rw [postFrame_answer] at run
  refine ⟨_, run, fun g => Table.get_set .., fun b => Table.get_set .., fun q e qe => ?_, queues, entries,
    free, ?_⟩
  · obtain ⟨queue, entry⟩ := joined q e qe
    exact ⟨queue.trans (pushTail_classOf ..), entry⟩
  · exact congrArg (fun t : State => { t with frames := s.frames, agents := s.agents }) rest

/-- Settles O9: the run of an accepted reply, a post to one queue with the front free entry. -/
theorem replyPostsToReplyQueue : Obligations.ReplyPostsToReplyQueue := by
  intro s a h q e others serves holds reply fits takes free f x
  have run := exec_reply_accepted serves.portTakes reply
    (replyRefusal_none serves holds reply fits takes (by simp [free]))
  rw [postFrame_answer, List.foldl_cons, List.foldl_nil, createEntry_cons _ _ q s e others free,
    pushTail_classOf] at run
  exact ⟨_, run, fun g => Table.get_set .., fun b => Table.get_set .., fun r => Table.get_set ..,
    fun d => Table.get_set .., rfl, rfl⟩

/-! ## POST, POST_TO_GROUP and REPLY refused -/

section Refused

variable {s : State} {a : AgentId}

/-- Within R28 a queue without room is full, and the destination test answers as R49 lists it. -/
theorem destinationRefusal_eq {q : QueueId}
    (within : queuedCount s q + claimCount s q ≤ (s.queue q).depth) :
    destinationRefusal s a q = destinationAnswer s a q := by
  have full : (!hasRoom s q) = true ↔ queuedCount s q + claimCount s q = (s.queue q).depth := by
    rw [hasRoom, Bool.not_eq_true', decide_eq_false_iff_not]
    omega
  unfold destinationRefusal destinationAnswer
  simp only [firstRefusal_refuseIf, firstRefusal_nil, beq_iff_eq, Bool.or_eq_true,
    ← Bool.not_eq_true', full]

variable (within : ∀ q, queuedCount s q + claimCount s q ≤ (s.queue q).depth)
include within

theorem destinationsRefusal_eq (qs : List QueueId) :
    destinationsRefusal s a qs = destinationsAnswer s a qs := by
  induction qs with
  | nil => rfl
  | cons q rest ih =>
    rw [destinationsRefusal, destinationRefusal_eq (within q), ih, destinationsAnswer, destinationsAnswer,
      List.findSome?_cons]
    cases destinationAnswer s a q <;> rfl

/-- POST and POST_TO_GROUP check as R48 and R57 list it. -/
theorem postRefusal_eq (h : Word) : postRefusal s a h =
    (withHandle h (holdRefusal s a h)).or
      (if sizeOfFrame s (handleIndex h) < (s.agent a).staging.length then some (.length, h)
      else if destinations s a = [] then
        some (.badGroup, BitVec.ofNat 32 (s.agent a).staging.number.toNat)
      else (destinationsAnswer s a (destinations s a)).or
        (if s.freeEntries.length < (destinations s a).length then
          some (.noEntry, BitVec.ofNat 32 (s.agent a).staging.number.toNat)
        else none)) := by
  simp only [postRefusal, firstRefusal_cons (withHandle ..), firstRefusal_cons (destinationsAnswer ..),
    firstRefusal_refuseIf, firstRefusal_nil, stagedQueues_isNone_iff, stagedQueues_getD,
    destinationsRefusal_eq within, tooLong, decide_eq_true_eq, numberWord]

/-- REPLY checks as R59 lists it. -/
theorem replyRefusal_eq (h : Word) :
    replyRefusal s a h ((s.frame (handleIndex h)).reply.getD 0) =
      (withHandle h (holdRefusal s a h)).or
        (match (s.frame (handleIndex h)).reply with
        | none => some (.noReplyQueue, h)
        | some q =>
          if sizeOfFrame s (handleIndex h) < (s.agent a).staging.length then some (.length, h)
          else (destinationsAnswer s a [q]).or
            (if s.freeEntries = [] then some (.noEntry, BitVec.ofNat 32 q.val) else none)) := by
  simp only [replyRefusal, firstRefusal_cons (withHandle ..), firstRefusal_cons (destinationsAnswer ..),
    firstRefusal_refuseIf, firstRefusal_nil, destinationsRefusal_eq within, tooLong, decide_eq_true_eq,
    List.isEmpty_iff, numberWord]
  cases (s.frame (handleIndex h)).reply with
  | none => rfl
  | some q => rfl

end Refused

/-- Settles O10: each command's checks are those of its rule, in its order. -/
theorem postAndReplyRefused : Obligations.PostAndReplyRefused := by
  intro s a h code operand takes within
  dsimp only
  rw [← holdRefusal_eq]
  exact ⟨fun first => exec_postCommand_refused takes ((postRefusal_eq within h).trans first),
    fun first => exec_reply_refused takes ((replyRefusal_eq within h).trans first)⟩

end Sys2Proof.Machine

end

section

-- Taken one after the other, the proofs need one thread (see Tests/Slice0.lean).
set_option Elab.async false

namespace Sys2Proof.Machine

/-! ## ATTACH -/

/-- ATTACH checks as R113 lists it. -/
theorem attachRefusal_eq (s : State) (a : AgentId) : attachRefusal s a =
    if s.controller ≠ .running then some .notRunning
    else if (s.agent a).state = .online then some .badState
    else if (s.agent a).state = .retiring then some .retiring
    else if (s.agent a).enable = false then some .notEnabled
    else none := by
  simp only [attachRefusal, firstRefusal_refuseIf, firstRefusal_nil, bne_iff_ne, beq_iff_eq,
    Bool.not_eq_true']

/-- An agent context replaced and answered is one replacement. -/
theorem State.setAgent_answer (s : State) (a : AgentId) (x : Agent) (c : ResultCode) (k : Action) (w : Word) :
    (s.setAgent a x).answer a c k w =
      s.setAgent a { x with last := { code := c, action := k, operand := w } } := by
  simp only [State.answer, State.setAgent_agent_self]
  simp only [State.setAgent, Table.set_set]

/-- Settles O26: the checks of R113, and the context that an accepted ATTACH writes. -/
theorem attachBringsOnline : Obligations.AttachBringsOnline := by
  intro s a takes
  refine ⟨fun code first => ?_, fun running offline enabled => ?_⟩
  · change execAttach a s = _
    rw [execAttach, writeAccess_of_takes takes, (attachRefusal_eq s a).trans first]
  · have passes : attachRefusal s a = none := by simp [attachRefusal_eq, running, offline, enabled]
    change execAttach a s = _
    rw [execAttach, writeAccess_of_takes takes, passes]
    simp only [State.setAgent_answer, Agent.cleared, enabled]
    rfl

/-! ## The staging registers and Interrupt Enable -/

/-- A length above 2048 is ignored whole (R46). -/
theorem withLength_eq (x : Staging) (w : Word) :
    x.withLength w = { x with length := if w.toNat ≤ 2048 then w.toNat else x.length } := by
  unfold Staging.withLength
  split <;> rfl

/-- Settles O32: each register is a write of the agent's own context. -/
theorem stagingAndEnablesWrittenWhileOnline : Obligations.StagingAndEnablesWrittenWhileOnline := by
  intro s a w takes
  dsimp only
  refine ⟨?_, ?_, ?_, ?_⟩
  · change execStagingDestination a w s = _
    exact writeAccess_of_takes takes ..
  · change execStagingAttributes a w s = _
    exact writeAccess_of_takes takes ..
  · change execStagingLength a w s = _
    rw [← withLength_eq]
    exact writeAccess_of_takes takes ..
  · change execInterruptEnable a w s = _
    exact writeAccess_of_takes takes ..

/-! ## The single registers of the control page -/

/-- A word has no bit of a mask of adjacent bits exactly when the field there is 0. -/
theorem and_mask_eq_zero_iff {mask : Word} (lo width : Nat) (w : Word)
    (bits : ∀ i < 32, mask.getLsbD i = decide (lo ≤ i ∧ i < lo + width)) :
    w &&& mask = 0 ↔ w.extractLsb' lo width = 0 := by
  have bit (i : Nat) (inside : i < 32) : (w &&& mask).getLsbD i =
      (decide (lo ≤ i ∧ i < lo + width) && w.getLsbD i) := by
    rw [BitVec.getLsbD_and, bits i inside, Bool.and_comm]
  constructor
  · intro clear
    apply BitVec.eq_of_getLsbD_eq
    intro i inside
    rw [BitVec.getLsbD_extractLsb']
    by_cases high : lo + i < 32
    · simpa [clear, inside] using bit (lo + i) high
    · simp [BitVec.getLsbD_of_ge w (lo + i) (by omega)]
  · intro clear
    apply BitVec.eq_of_getLsbD_eq
    intro i inside
    have field := congrArg (·.getLsbD (i - lo)) clear
    rw [bit i inside]
    by_cases range : lo ≤ i ∧ i < lo + width
    · have : i - lo < width := by omega
      simpa [range, this] using field
    · simp [range]

/-- A Dead-Letter Selection word is refused for a bit between its flag and its number (R92). -/
theorem selectionOfWord_eq (w : Word) : selectionOfWord w =
    if w.extractLsb' 5 26 = 0 then
      some (if w.getLsbD 31 = true then some (w.extractLsb' 0 5).toFin else none)
    else none :=
  if_congr (and_mask_eq_zero_iff 5 26 w (by decide)) rfl rfl

/-- A Supervisor Interrupt Enable word is refused for a bit above its one (R146). -/
theorem enableOfWord_eq (w : Word) : enableOfWord w =
    if w.extractLsb' 1 31 = 0 then some (w.getLsbD 0) else none :=
  if_congr (and_mask_eq_zero_iff 1 31 w (by decide)) rfl rfl

section Configured

variable {s : State} {w : Word} (takes : PortTakes s .a)
include takes

theorem exec_groupMemberSet (g : GroupId) : exec (.groupMemberSet g w) s =
    .next (configure (0x080 + 4 * g.val) g.val none (some { s with groups := s.groups.set g w }) s) := by
  change execGroupMemberSet g w s = _
  rw [execGroupMemberSet, writeAccess_of_takes takes]

theorem exec_timebasePrescaler : exec (.timebasePrescaler w) s =
    .next (configure 0x00C 0 none ((prescalerOfWord w).map fun n => { s with prescaler := n }) s) := by
  change execTimebasePrescaler w s = _
  rw [execTimebasePrescaler, writeAccess_of_takes takes]

theorem exec_deadLetterSelection : exec (.deadLetterSelection w) s =
    .next (configure 0x014 0 none ((selectionOfWord w).map fun x => { s with deadLetter := x }) s) := by
  change execDeadLetterSelection w s = _
  rw [execDeadLetterSelection, writeAccess_of_takes takes]

theorem exec_supervisorInterruptEnable : exec (.supervisorInterruptEnable w) s =
    .next (configure 0x020 0 none ((enableOfWord w).map fun b => { s with supervisorEnable := b }) s) := by
  change execSupervisorInterruptEnable w s = _
  rw [execSupervisorInterruptEnable, writeAccess_of_takes takes]

end Configured

/-- A configuration write that its value alone decides: a value in range is stored, another answered
BAD_VALUE (R153). -/
theorem configure_of_value {s t : State} {c : Instr} {offset n : Nat} {change : Option State} {good : Prop}
    [Decidable good] (write : exec c s = .next (configure offset n none change s))
    (value : change = if good then some t else none) :
    (good → exec c s = .next (t.controlAnswer .ok (.register (BitVec.ofNat 10 offset)) n)) ∧
      (¬good → exec c s = .next (s.controlAnswer .badValue (.register (BitVec.ofNat 10 offset)) n)) := by
  rw [write, value]
  exact ⟨fun inRange => by rw [if_pos inRange]; rfl, fun outOfRange => by rw [if_neg outOfRange]; rfl⟩

/-- Settles O41: each register is a configuration write that its value alone decides. -/
theorem singleRegistersWritten : Obligations.SingleRegistersWritten := by
  intro s w takes
  refine ⟨fun g => ?_, ?_, ?_, ?_⟩
  · exact configure_of_value (exec_groupMemberSet takes g) (if_pos trivial).symm
  · refine configure_of_value (exec_timebasePrescaler takes) ?_
    rw [prescalerOfWord, Option.map_if]
    rfl
  · refine configure_of_value (exec_deadLetterSelection takes) ?_
    rw [selectionOfWord_eq, Option.map_if]
  · refine configure_of_value (exec_supervisorInterruptEnable takes) ?_
    rw [enableOfWord_eq, Option.map_if]

end Sys2Proof.Machine

end

/-!
Receiving and claims: what RECEIVE and RECEIVE-ANY claim (R64 to R69), and the ends of a claim with the redelivery
path and the drain test that follow them (R70 to R73, R85 to R100).
-/

section

-- Taken one after the other, the proofs need one thread (see Tests/Slice0.lean).
set_option Elab.async false

namespace Sys2Proof.Machine

/-! ## RECEIVE -/

section Receive

variable {s : State} {a : AgentId} {q : QueueId} {e : EntryId}

theorem FrontEntry.front_eq {x y : Queue} (h : FrontEntry x e y) : x.front = some e ∧ x.popFront = y := by
  rcases h with ⟨rest, urgent, rfl⟩ | ⟨rest, urgent, normal, rfl⟩
  · simp [Queue.front, Queue.popFront, urgent]
  · simp [Queue.front, Queue.popFront, urgent, normal]

theorem atQuota_eq_false (quota : BelowQuota s a) : atQuota s a = false := decide_eq_false (by omega)

theorem atClaimLimit_eq_false (limit : (s.agent a).claims.length < (s.agent a).claimLimit) :
    atClaimLimit s a = false := decide_eq_false (by omega)

/-- RECEIVE passes its checks (R64). -/
theorem receiveRefusal_none (serves : Serves s a) (consumer : (s.queue q).consumer = a)
    (state : (s.queue q).state = .open ∨ (s.queue q).state = .draining) (quota : BelowQuota s a)
    (limit : (s.agent a).claims.length < (s.agent a).claimLimit) (front : (s.queue q).front = some e) :
    receiveRefusal s a q = none := by
  rcases state with state | state <;>
    simp [receiveRefusal, firstRefusal_cons, serves.prefix_none, consumer, state, receiveStateRefusal,
      atQuota_eq_false quota, atClaimLimit_eq_false limit, front, refuseIf]

theorem exec_receive_accepted (serves : Serves s a) (consumer : (s.queue q).consumer = a)
    (state : (s.queue q).state = .open ∨ (s.queue q).state = .draining) (quota : BelowQuota s a)
    (limit : (s.agent a).claims.length < (s.agent a).claimLimit) (front : (s.queue q).front = some e) :
    exec (.receive a q) s = .next (acceptReceive a q e .receive s) := by
  change execReceive a q s = _
  rw [execReceive, readAccess, takeAccess_of_takes serves.portTakes,
    receiveRefusal_none serves consumer state quota limit front, front]

/-- The distance of a deadline rests on the entries and the timebase count alone (R82). -/
theorem deadlineDistance_congr {t : State} (entries : t.entries = s.entries) (timebase : t.timebase = s.timebase)
    (d : EntryId) : deadlineDistance t d = deadlineDistance s d := by
  rw [deadlineDistance, deadlineDistance, State.entry, State.entry, entries, timebase]

/-- So does the place of a deadline, with the expiries handed over. -/
theorem insertDeadline_congr {t : State} (entries : t.entries = s.entries) (timebase : t.timebase = s.timebase)
    (handedOver : t.handedOver = s.handedOver) (l : List EntryId) :
    insertDeadline t e l = insertDeadline s e l := by
  induction l with
  | nil => rfl
  | cons d l ih =>
    simp only [insertDeadline, deadlineDistance_congr entries timebase, handedOver, ih]

/-! ### What an accepted receive writes -/

/-- The record of entry `e` of queue `q` as a claim of agent `a` (R65, R81). -/
def claimRecord (s : State) (a : AgentId) (q : QueueId) (e : EntryId) : Entry :=
  { s.entry e with place := .claimed, claimant := some a, deadline := deadlineAt s (s.queue q).timeout }

/-- The front entry of the queue has left it and become a claim; its deadline has no place yet. -/
def entryClaimed (s : State) (a : AgentId) (q : QueueId) (e : EntryId) : State :=
  { s with
    queues := s.queues.set q (s.queue q).popFront
    entries := s.entries.set e (claimRecord s a q e) }

/-- The deadline list with the claim in its place (R82). -/
def claimDeadlines (s : State) (a : AgentId) (q : QueueId) (e : EntryId) : List EntryId :=
  if (claimRecord s a q e).deadline.isSome = true then insertDeadline (entryClaimed s a q e) e s.deadlines
  else s.deadlines

theorem claimDeadlines_of_timeout_zero (zero : (s.queue q).timeout = 0) :
    claimDeadlines s a q e = s.deadlines := by
  simp [claimDeadlines, claimRecord, deadlineAt, zero]

theorem claimDeadlines_of_timeout (nonzero : (s.queue q).timeout ≠ 0) :
    claimDeadlines s a q e = insertDeadline (entryClaimed s a q e) e s.deadlines := by
  simp only [claimDeadlines, claimRecord, deadlineAt, if_neg nonzero, Option.isSome_some, if_true]

/-- The context of an agent that has received entry `e` of queue `q` (R65, R67). -/
def receiver (s : State) (a : AgentId) (q : QueueId) (e : EntryId) (k : Action) : Agent :=
  let x := s.entry e
  let f := s.frame x.frame
  { s.agent a with
    claims := (s.agent a).claims ++ [e]
    delivery :=
      some
        { handle := formHandle x.frame f.generation, source := f.source, tag := f.tag, length := f.length,
          urgent := f.urgent, reply := f.reply, home := x.home, first := x.first,
          redeliveries := x.redeliveries }
    last := { code := .ok, action := k, operand := BitVec.ofNat 32 q.val } }

/-- An accepted receive of queue `q`, record by record. -/
theorem acceptReceive_eq (a : AgentId) (q : QueueId) (e : EntryId) (k : Action) (s : State) :
    acceptReceive a q e k s =
      State.returns
        { entryClaimed s a q e with
          agents := s.agents.set a (receiver s a q e k), deadlines := claimDeadlines s a q e }
        (agentPort a) (formHandle (s.entry e).frame (s.frame (s.entry e).frame).generation) := by
  unfold acceptReceive
  rw [claimEntry_eq]
  exact congrArg (State.returns · _ _)
    (State.setAgent_answer { entryClaimed s a q e with deadlines := claimDeadlines s a q e } a _ .ok k _)

theorem acceptReceive_agent (a b : AgentId) (q : QueueId) (e : EntryId) (k : Action) (s : State) :
    (acceptReceive a q e k s).agent b = if b = a then receiver s a q e k else s.agent b := by
  rw [acceptReceive_eq, State.returns_agent]
  exact Table.get_set ..

end Receive

/-- Settles O11: the claim of the front entry, read field by field; its deadline stands where
`insertDeadline_spec` says. -/
theorem receiveClaimsFrontEntry : Obligations.ReceiveClaimsFrontEntry := by
  intro s a q e y serves consumer state quota limit front x f h
  obtain ⟨first, rfl⟩ := front.front_eq
  have run := exec_receive_accepted serves consumer state quota limit first
  rw [acceptReceive_eq] at run
  refine ⟨_, run, fun r => ?_, fun d => ?_, fun b => ?_, fun i => ?_, ?_, ?_⟩
  · rw [State.returns_queue]
    exact Table.get_set ..
  · rw [State.returns_entry]
    exact Table.get_set ..
  · rw [State.returns_agent]
    exact Table.get_set ..
  · rw [State.returns_data]
    cases i <;> rfl
  · rw [State.returns_deadlines]
    split
    · exact claimDeadlines_of_timeout_zero ‹_›
    · obtain ⟨l, r, before, after, earlier, later⟩ :=
        insertDeadline_spec (entryClaimed s a q e) e s.deadlines
      refine ⟨l, r, before, (claimDeadlines_of_timeout ‹_›).trans after, ?_⟩
      simp only [deadlineDistance_congr (State.returns_entries ..) (State.returns_timebase ..)]
      exact ⟨earlier, later⟩
  · cases agentPort a <;> rfl

/-! ## RECEIVE-ANY -/

section ReceiveAny

variable {s : State} {a : AgentId} {q : QueueId}

theorem front_isSome_iff (x : Queue) : x.front.isSome = true ↔ 0 < x.urgent.length + x.normal.length := by
  rw [← Option.not_isNone, Bool.not_eq_true', ← Bool.not_eq_true, front_isNone_iff, Nat.pos_iff_ne_zero,
    ne_eq, Nat.add_eq_zero_iff, List.length_eq_zero_iff, List.length_eq_zero_iff]

/-- A candidate is a queue of the agent that may be received from and has an entry queued (R68). -/
theorem candidate_iff : candidate s a q = true ↔ (s.queue q).consumer = a ∧
    ((s.queue q).state = .open ∨ (s.queue q).state = .draining) ∧ 0 < queuedCount s q := by
  rw [candidate, Bool.and_eq_true, Bool.and_eq_true, beq_iff_eq, receivable_iff, front_isSome_iff, and_assoc]
  rfl

/-- The place of a queue in the search order (R69). -/
def searchPosition (rotation q : QueueId) : Nat := (q.val + 31 - rotation.val) % 32

theorem length_searchOrder (rotation : QueueId) : (searchOrder rotation).length = 32 := by
  simp [searchOrder]

theorem searchPosition_getElem {rotation : QueueId} {i : Nat} (inside : i < (searchOrder rotation).length) :
    searchPosition rotation (searchOrder rotation)[i] = i := by
  rw [length_searchOrder] at inside
  simp only [searchPosition, searchOrder, List.getElem_map, List.getElem_finRange, Fin.val_add,
    Fin.val_one, Fin.val_cast]
  omega

theorem getElem_searchPosition (rotation q : QueueId) :
    ∃ inside : searchPosition rotation q < (searchOrder rotation).length,
      (searchOrder rotation)[searchPosition rotation q] = q := by
  obtain ⟨i, inside, at_i⟩ := List.getElem_of_mem (mem_searchOrder rotation q)
  have place := searchPosition_getElem inside
  rw [at_i] at place
  subst place
  exact ⟨inside, at_i⟩

/-- The search finds the queue that stands first among those looked for (R69). -/
theorem find_searchOrder {rotation : QueueId} {p : QueueId → Bool} (found : p q = true)
    (first : ∀ r, p r = true → searchPosition rotation q ≤ searchPosition rotation r) :
    (searchOrder rotation).find? p = some q := by
  obtain ⟨inside, at_q⟩ := getElem_searchPosition rotation q
  refine List.find?_eq_some_iff_getElem.mpr ⟨found, _, inside, at_q, fun j before => ?_⟩
  rw [Bool.not_eq_true']
  refine Bool.eq_false_iff.mpr fun also => ?_
  have := first _ also
  rw [searchPosition_getElem (before.trans inside)] at this
  omega

/-- RECEIVE-ANY chooses the first candidate with an urgent entry, else the first candidate (R69). -/
theorem chooseQueue_eq (is : candidate s a q = true)
    (first : ((s.queue q).urgent ≠ [] ∧ ∀ r, candidate s a r = true → (s.queue r).urgent ≠ [] →
        searchPosition (s.agent a).rotation q ≤ searchPosition (s.agent a).rotation r) ∨
      (∀ r, candidate s a r = true → (s.queue r).urgent = []) ∧ ∀ r, candidate s a r = true →
        searchPosition (s.agent a).rotation q ≤ searchPosition (s.agent a).rotation r) :
    chooseQueue s a = some q := by
  have urgent (r : QueueId) : (candidate s a r && !(s.queue r).urgent.isEmpty) = true ↔
      candidate s a r = true ∧ (s.queue r).urgent ≠ [] := by
    simp
  rw [chooseQueue]
  rcases first with ⟨has, first⟩ | ⟨idle, first⟩
  · rw [find_searchOrder ((urgent q).mpr ⟨is, has⟩) fun r also =>
      have ⟨is, has⟩ := (urgent r).mp also
      first r is has, Option.some_or]
  · rw [List.find?_eq_none.mpr fun r _ also =>
      have ⟨is, has⟩ := (urgent r).mp also
      has (idle r is),
      Option.none_or, find_searchOrder is first]

theorem exec_receiveAny_accepted {e : EntryId} (serves : Serves s a) (quota : BelowQuota s a)
    (limit : (s.agent a).claims.length < (s.agent a).claimLimit) (choice : chooseQueue s a = some q)
    (front : (s.queue q).front = some e) : exec (.receiveAny a) s =
      .next (acceptReceive a q e .receiveAny (s.setAgent a { s.agent a with rotation := q })) := by
  have passes : receiveAnyRefusal s a = none := by
    simp [receiveAnyRefusal, firstRefusal_cons, serves.prefix_none, atQuota_eq_false quota,
      atClaimLimit_eq_false limit, choice, refuseIf]
  change execReceiveAny a s = _
  rw [execReceiveAny, readAccess, takeAccess_of_takes serves.portTakes]
  simp only [passes, choice, front]

/-- The claim and its deadline do not rest on the agents' contexts. -/
theorem claimDeadlines_setAgent (e : EntryId) (x : Agent) :
    claimDeadlines (s.setAgent a x) a q e = claimDeadlines s a q e := by
  have place := insertDeadline_congr (s := entryClaimed s a q e) (e := e)
    (t := entryClaimed (s.setAgent a x) a q e) rfl rfl rfl s.deadlines
  unfold claimDeadlines
  exact if_congr .rfl place rfl

/-- A receive with another context of the agent differs in the agents' contexts alone. -/
theorem acceptReceive_setAgent (e : EntryId) (x : Agent) (k l : Action) :
    { acceptReceive a q e k (s.setAgent a x) with agents := (acceptReceive a q e l s).agents } =
      acceptReceive a q e l s := by
  rw [acceptReceive_eq, acceptReceive_eq, claimDeadlines_setAgent]
  cases agentPort a <;> rfl

theorem receiver_rotated (e : EntryId) (k : Action) :
    receiver (s.setAgent a { s.agent a with rotation := q }) a q e k =
      { receiver s a q e .receive with
        rotation := q, last := { code := .ok, action := k, operand := BitVec.ofNat 32 q.val } } := by
  simp only [receiver, State.setAgent_agent_self, State.setAgent_entry, State.setAgent_frame]

end ReceiveAny

/-- Settles O12: the search finds the queue (`chooseQueue_eq`), and both commands are receives of it, record by
record. -/
theorem receiveAnyServesInRotation : Obligations.ReceiveAnyServesInRotation := by
  intro s a q serves quota limit candidate position is first
  have candidates (r : QueueId) : Machine.candidate s a r = true ↔ candidate r := candidate_iff
  have choice : chooseQueue s a = some q := by
    refine chooseQueue_eq ((candidates q).mpr is) ?_
    simp only [candidates]
    exact first
  obtain ⟨consumer, state, queued⟩ := is
  obtain ⟨e, front⟩ := Option.isSome_iff_exists.mp ((front_isSome_iff _).mpr queued)
  have receive := exec_receive_accepted serves consumer state quota limit front
  have receiveAny := exec_receiveAny_accepted serves quota limit choice front
  refine ⟨_, _, receive, receiveAny, fun b => ?_, acceptReceive_setAgent ..⟩
  rw [acceptReceive_agent, acceptReceive_agent, acceptReceive_agent, receiver_rotated, if_pos rfl,
    State.setAgent_agent]
  split <;> rfl

end Sys2Proof.Machine

end

section

-- Taken one after the other, the proofs need one thread (see Tests/Slice0.lean).
set_option Elab.async false

namespace Sys2Proof.Machine

/-! ## A last-result record can be written before or after -/

theorem noticed_claims (x : Agent) (n : Notice) : (noticed x n).claims = x.claims := by
  unfold noticed
  split <;> (try split) <;> rfl

/-- A notice is offered whatever the last-result record holds. -/
theorem noticed_last (x : Agent) (n : Notice) (r : LastResult) :
    noticed { x with last := r } n = { noticed x n with last := r } := by
  unfold noticed
  split <;> (try split) <;> rfl

section Answer

variable (a : AgentId) (c : ResultCode) (k : Action) (w : Word)

theorem answer_claims (b : AgentId) (s : State) :
    ((s.answer a c k w).agent b).claims = (s.agent b).claims := by
  rw [State.answer_agent]
  split
  · rename_i same; rw [same]
  · rfl

theorem claimCount_answer (q : QueueId) (s : State) : claimCount (s.answer a c k w) q = claimCount s q := by
  simp only [claimCount, claimsOfQueue, answer_claims, State.answer_entry]

theorem mayMoveTo_answer (e : EntryId) (d : QueueId) (s : State) :
    MayMoveTo (s.answer a c k w) e d ↔ MayMoveTo s e d := by
  simp only [MayMoveTo, queuedCount, claimCount_answer, answer_claims, State.answer_entry,
    State.answer_queue, State.answer_deadLetter]

theorem moveTarget_answer (e : EntryId) (s : State) :
    moveTarget (s.answer a c k w) e = moveTarget s e :=
  Option.ext fun d => by
    rw [moveTarget_eq_some, moveTarget_eq_some, mayMoveTo_answer]

theorem offerNotice_answer (b : AgentId) (n : Notice) (s : State) :
    (offerNotice b n s).answer a c k w = offerNotice b n (s.answer a c k w) := by
  rw [offerNotice_eq, offerNotice_eq]
  refine congrArg (fun t => { s with agents := t }) (Table.ext_get fun i => ?_)
  change ((s.setAgent b _).answer a c k w).agent i = ((s.answer a c k w).setAgent b _).agent i
  simp only [State.answer_agent, State.setAgent_agent]
  by_cases own : b = a
  · subst own
    by_cases hi : i = b <;> simp [hi, noticed_last]
  · by_cases hi : i = a
    · subst hi; simp [Ne.symm own]
    · simp [own, hi]

theorem report_answer (r : Option Requester) (n : Notice) (e : SupervisorEvent) (s : State) :
    (report r n e s).answer a c k w = report r n e (s.answer a c k w) := by
  rcases r with _ | ⟨b⟩ | _
  · rfl
  · exact offerNotice_answer ..
  · simp only [report, offerEvent_eq]
    rfl

theorem drainCompletion_answer (q : QueueId) (s : State) :
    (drainCompletion q s).answer a c k w = drainCompletion q (s.answer a c k w) := by
  rw [drainCompletion_eq, drainCompletion_eq, claimCount_answer, State.answer_queue]
  exact (apply_ite (fun t : State => t.answer a c k w) ..).trans (if_congr .rfl (report_answer ..) rfl)

theorem freePath_answer (f : FrameIdx) (s : State) :
    (freePath f s).answer a c k w = freePath f (s.answer a c k w) := by
  rw [freePath_eq, freePath_eq]
  rfl

theorem dropReference_answer (f : FrameIdx) (s : State) :
    (dropReference f s).answer a c k w = dropReference f (s.answer a c k w) := by
  rw [dropReference_eq, dropReference_eq, State.answer_frame]
  split
  · exact freePath_answer ..
  · rfl

theorem dropWithNotice_answer (e : EntryId) (s : State) :
    (dropWithNotice e s).answer a c k w = dropWithNotice e (s.answer a c k w) := by
  simp only [dropWithNotice, drainCompletion_answer, offerNotice_answer, dropReference_answer]
  rfl

theorem moveEntry_answer (e : EntryId) (d : QueueId) (s : State) :
    (moveEntry e d s).answer a c k w = moveEntry e d (s.answer a c k w) := by
  simp only [moveEntry, drainCompletion_answer, offerNotice_answer]
  rfl

theorem deadLetterPath_answer (e : EntryId) (s : State) :
    (deadLetterPath e s).answer a c k w = deadLetterPath e (s.answer a c k w) := by
  unfold deadLetterPath
  rw [moveTarget_answer]
  cases moveTarget s e with
  | some d => exact moveEntry_answer ..
  | none => exact dropWithNotice_answer ..

/-- The redelivery path reads no last-result record and writes none. -/
theorem redeliver_answer (e : EntryId) (r : ReturnReason) (s : State) :
    (redeliver e r s).answer a c k w = redeliver e r (s.answer a c k w) := by
  have count : returnCount (s.answer a c k w) e = returnCount s e := rfl
  unfold redeliver
  rw [count, State.answer_entry, State.answer_queue]
  match (s.queue (s.entry e).home).state with
  | .flushing => exact dropReference_answer ..
  | .closed | .disabled => exact dropWithNotice_answer ..
  | .open | .paused | .draining =>
    cases r with
    | retired => rfl
    | expired | released =>
      cases returnCount s e with
      | some n => rfl
      | none => exact deadLetterPath_answer ..

end Answer

end Sys2Proof.Machine

end

section

-- Taken one after the other, the proofs need one thread (see Tests/Slice0.lean).
set_option Elab.async false

namespace Sys2Proof.Machine

/-! ## A claim that has ended -/

/-- The claim `e` of agent `a` has ended, the agent's context has become `x`, and nothing else has changed: the
state from which the entry goes on (R70, R85). -/
def claimEnded (s : State) (a : AgentId) (x : Agent) (e : EntryId) : State :=
  { s with
    agents := s.agents.set a x
    entries := s.entries.set e { s.entry e with claimant := none, deadline := none }
    deadlines := s.deadlines.erase e
    handedOver := s.handedOver.erase e }

section ClaimEnded

variable (s : State) (a : AgentId) (x : Agent) (e : EntryId)

theorem endClaim_eq_claimEnded : endClaim a e s =
    claimEnded s a { s.agent a with claims := (s.agent a).claims.erase e } e := endClaim_eq a e s

theorem claimEnded_agent (b : AgentId) : (claimEnded s a x e).agent b = if b = a then x else s.agent b :=
  Table.get_set ..

theorem claimEnded_entry (d : EntryId) : (claimEnded s a x e).entry d =
    if d = e then { s.entry e with claimant := none, deadline := none } else s.entry d := Table.get_set ..

@[simp] theorem claimEnded_entry_self : (claimEnded s a x e).entry e =
    { s.entry e with claimant := none, deadline := none } := Table.get_set_self ..

/-- The end of a claim takes no entry to another queue or frame. -/
theorem claimEnded_entry_kept (d : EntryId) : ((claimEnded s a x e).entry d).home = (s.entry d).home ∧
    ((claimEnded s a x e).entry d).frame = (s.entry d).frame := by
  rw [claimEnded_entry]
  split
  · rename_i same; rw [same]; exact ⟨rfl, rfl⟩
  · exact ⟨rfl, rfl⟩

@[simp] theorem claimEnded_queue (q : QueueId) : (claimEnded s a x e).queue q = s.queue q := rfl

@[simp] theorem claimEnded_frame (f : FrameIdx) : (claimEnded s a x e).frame f = s.frame f := rfl

theorem claimEnded_setAgent (y : Agent) : (claimEnded s a x e).setAgent a y = claimEnded s a y e := by
  simp only [claimEnded, State.setAgent, Table.set_set]

theorem claimEnded_answer (c : ResultCode) (k : Action) (w : Word) :
    (claimEnded s a x e).answer a c k w =
      claimEnded s a { x with last := { code := c, action := k, operand := w } } e := by
  rw [State.answer, claimEnded_setAgent, claimEnded_agent, if_pos rfl]

theorem claimEnded_offerNotice (n : Notice) :
    offerNotice a n (claimEnded s a x e) = claimEnded s a (noticed x n) e := by
  rw [offerNotice_eq, claimEnded_setAgent, claimEnded_agent, if_pos rfl]

variable {s a x e}

/-- The binding that the end of a claim leaves, in any state that has the claim list without the claim (R132,
R133). -/
theorem unbindWithoutClaim_eq_withoutClaim {t : State}
    (own : t.agent a = { s.agent a with claims := (s.agent a).claims.erase e })
    (frame : ∀ d, (t.entry d).frame = (s.entry d).frame) :
    unbindWithoutClaim a (s.entry e).frame t = t.setAgent a (withoutClaim s a e) := by
  rw [unbindWithoutClaim_eq]
  simp only [own, frame, boundTo_congr (s := s) (t := t) (a := a) (by rw [own])]
  rfl

/-- A claim that is released or expires ends, and with it the binding that rests on it (R73, R85). -/
theorem unbindWithoutClaim_endClaim : unbindWithoutClaim a (s.entry e).frame (endClaim a e s) =
    claimEnded s a (withoutClaim s a e) e := by
  rw [endClaim_eq_claimEnded, unbindWithoutClaim_eq_withoutClaim, claimEnded_setAgent]
  · rw [claimEnded_agent, if_pos rfl]
  · exact fun d => (claimEnded_entry_kept ..).2

/-! ### Counts without the claim -/

/-- A queue that is not the entry's home keeps its claim count. -/
theorem claimCount_claimEnded {d : QueueId} (claims : x.claims = (s.agent a).claims.erase e)
    (other : d ≠ (s.entry e).home) : claimCount (claimEnded s a x e) d = claimCount s d := by
  have same (b : AgentId) : claimsOfQueue (claimEnded s a x e) d b = claimsOfQueue s d b := by
    simp only [claimsOfQueue, claimEnded_entry_kept, claimEnded_agent]
    split
    · rename_i own
      have absent : e ∉ (s.agent b).claims.filter fun y => (s.entry y).home == d := by
        simp [Ne.symm other]
      rw [claims, ← List.erase_filter, own, List.erase_of_not_mem (own ▸ absent)]
    · rfl
  simp only [claimCount, same]

/-- The end of a claim bears on no condition of a dead-letter move of its entry (R88). -/
theorem mayMoveTo_claimEnded {d : QueueId} (claims : x.claims = (s.agent a).claims.erase e) :
    MayMoveTo (claimEnded s a x e) e d ↔ MayMoveTo s e d := by
  simp only [MayMoveTo, queuedCount, claimEnded_queue, claimEnded_entry_kept]
  refine and_congr_right fun _ => and_congr_right fun other => ?_
  rw [claimCount_claimEnded claims other]
  refine and_congr_right fun _ => and_congr_right fun _ => forall_congr' fun y => imp_congr_left ?_
  refine or_congr_right (or_congr_right (exists_congr fun b => and_congr_left fun home => ?_))
  rw [claimEnded_agent]
  split
  · rename_i own
    have ne : y ≠ e := fun same => other (same ▸ home.symm)
    rw [claims, List.mem_erase_of_ne ne, own]
  · rfl

end ClaimEnded

/-! ## The entry freed -/

theorem ReferenceDropped.congr {s s' t t' : State} {f : FrameIdx} (h : ReferenceDropped s t f)
    (frames : s'.frames = s.frames) (freeLists : s'.freeLists = s.freeLists)
    (scrubList : s'.scrubList = s.scrubList) (pools : s'.pools = s.pools)
    (frames' : t'.frames = t.frames) (freeLists' : t'.freeLists = t.freeLists)
    (scrubList' : t'.scrubList = t.scrubList) (pools' : t'.pools = t.pools) :
    ReferenceDropped s' t' f := by
  unfold ReferenceDropped TakesFreePath OnlyFrame OnlyFreeList OnlyPool State.frame State.freeList State.pool
    at h ⊢
  rw [frames, freeLists, scrubList, pools, frames', freeLists', scrubList', pools']
  exact h

/-- The claim `e` of agent `a` has ended and its entry's record become `y`, the agent's context has become `x` and
the queues `queues`, and nothing else has changed (R87, R89). -/
def claimQueued (s : State) (a : AgentId) (x : Agent) (e : EntryId) (y : Entry) (queues : Table Queue 32) :
    State :=
  { s with
    agents := s.agents.set a x
    queues := queues
    entries := s.entries.set e y
    deadlines := s.deadlines.erase e
    handedOver := s.handedOver.erase e }

theorem claimEnded_setEntry (s : State) (a : AgentId) (x : Agent) (e : EntryId) (y : Entry) :
    (claimEnded s a x e).setEntry e y = claimQueued s a x e y s.queues := by
  simp only [claimEnded, claimQueued, State.setEntry, Table.set_set]

theorem claimQueued_setQueue (s : State) (a : AgentId) (x : Agent) (e : EntryId) (y : Entry)
    (queues : Table Queue 32) (q : QueueId) (z : Queue) :
    (claimQueued s a x e y queues).setQueue q z = claimQueued s a x e y (queues.set q z) := rfl

/-- The claim `e` of agent `a` has ended and its entry joined the free-entry list, the agent's context has become
`x` and the queues `queues`, and nothing else has changed (R23, R71). -/
def claimFreed (s : State) (a : AgentId) (x : Agent) (e : EntryId) (queues : Table Queue 32) : State :=
  { s with
    agents := s.agents.set a x
    queues := queues
    entries := s.entries.set e (unclaimed (s.entry e) .free)
    freeEntries := s.freeEntries ++ [e]
    deadlines := s.deadlines.erase e
    handedOver := s.handedOver.erase e }

theorem freeEntry_claimEnded (s : State) (a : AgentId) (x : Agent) (e : EntryId) :
    freeEntry e (claimEnded s a x e) = claimFreed s a x e s.queues := by
  rw [freeEntry_eq, claimEnded_entry_self]
  simp only [claimEnded, claimFreed, Table.set_set, unclaimed]

theorem claimFreed_setQueue (s : State) (a : AgentId) (x : Agent) (e : EntryId) (queues : Table Queue 32)
    (q : QueueId) (y : Queue) :
    (claimFreed s a x e queues).setQueue q y = claimFreed s a x e (queues.set q y) := rfl

/-- The reference of the freed entry is dropped. -/
theorem entryFreed (s : State) (a : AgentId) (x : Agent) (e : EntryId) (queues : Table Queue 32) :
    EntryFreed s (dropReference (s.entry e).frame (claimFreed s a x e queues)) e := by
  obtain ⟨drop, only⟩ := referenceDropped (s.entry e).frame (claimFreed s a x e queues)
  generalize dropReference (s.entry e).frame (claimFreed s a x e queues) = t at drop only
  have entries : t.entries = s.entries.set e (unclaimed (s.entry e) .free) := congrArg State.entries only
  refine ⟨fun d => ?_, congrArg State.freeEntries only,
    ⟨congrArg State.deadlines only, congrArg State.handedOver only⟩,
    drop.congr rfl rfl rfl rfl rfl rfl rfl rfl, ?_⟩
  · exact (congrArg (·.get d) entries).trans (Table.get_set ..)
  · exact congrArg (fun u : State =>
      { u with
        agents := s.agents, queues := s.queues, entries := s.entries, freeEntries := s.freeEntries,
        deadlines := s.deadlines, handedOver := s.handedOver }) only

/-- What is freed does not rest on the agents' contexts. -/
theorem EntryFreed.setAgent {s t : State} {e : EntryId} (h : EntryFreed s t e) (a : AgentId) (x : Agent) :
    EntryFreed s (t.setAgent a x) e := h

theorem dropReference_queues (f : FrameIdx) (s : State) : (dropReference f s).queues = s.queues := by
  have queues := congrArg State.queues (referenceDropped f s).2
  exact queues

/-! ## Where the entry goes on (R86) -/

section Redelivery

variable {s : State} {a : AgentId} {x : Agent} {e : EntryId}

/-- The source agent of the entry's frame is told, when `x` is the context of `a` (R91). -/
theorem sourceTold {t : State} (outcome : NoticeOutcome) (agents : t.agents = s.agents.set a x) :
    SourceTold s (offerNotice (s.frame (s.entry e).frame).source (undeliveredNotice s e outcome) t) a x e
      outcome := by
  intro b
  have agent (b : AgentId) : t.agent b = if b = a then x else s.agent b :=
    (congrArg (·.get b) agents).trans (Table.get_set ..)
  rw [offerNotice_eq, State.setAgent_agent, agent, agent]
  split
  · rename_i told
    rw [told]
  · rfl

theorem pushFront_eq (x : Queue) (c : EntryClass) (e : EntryId) : x.pushFront c e =
    match c with
    | .urgent => { x with urgent := e :: x.urgent }
    | .normal => { x with normal := e :: x.normal } := by
  cases c <;> rfl

/-- The entry is returned (R87). -/
theorem returned_returnEntry (n : Nat) : Returned s (returnEntry e n (claimEnded s a x e)) a x e n := by
  unfold returnEntry
  dsimp only
  rw [claimEnded_setEntry, claimQueued_setQueue, claimEnded_entry_self, pushFront_eq]
  exact ⟨fun b => Table.get_set .., fun d => Table.get_set .., fun r => Table.get_set .., ⟨rfl, rfl⟩, rfl⟩

/-- The entry is moved, and drain completion then tested on the queue it has left (R89). -/
theorem moved_moveEntry (d : QueueId) : ∃ u, Moved s u a x e d ∧
    moveEntry e d (claimEnded s a x e) = drainCompletion (s.entry e).home u := by
  unfold moveEntry
  dsimp only
  rw [claimEnded_setEntry, claimQueued_setQueue, claimEnded_entry_self]
  refine ⟨_, ⟨sourceTold .deadLettered rfl, ?_⟩, rfl⟩
  rw [offerNotice_eq]
  generalize noticed _ _ = y
  exact ⟨fun b => Table.get_set .., fun r => Table.get_set .., ⟨rfl, rfl⟩, rfl⟩

/-- The entry is dropped with notice, and drain completion then tested on its home queue (R90). -/
theorem dropped_dropWithNotice : ∃ u, DroppedWithNotice s u a x e ∧
    dropWithNotice e (claimEnded s a x e) = drainCompletion (s.entry e).home u := by
  unfold dropWithNotice
  dsimp only
  rw [freeEntry_claimEnded, claimEnded_entry_self, claimFreed_setQueue]
  refine ⟨_, ⟨sourceTold .dropped (dropReference_agents ..), ?_⟩, rfl⟩
  rw [offerNotice_eq]
  refine ⟨fun r => ?_, (entryFreed ..).setAgent ..⟩
  rw [State.setAgent_queue, State.queue, dropReference_queues]
  exact Table.get_set ..

/-- The entry is dropped into the flush count of its home queue (R103). -/
theorem dropped_dropIntoFlush : DroppedIntoFlush s (dropIntoFlush e (claimEnded s a x e)) a x e := by
  unfold dropIntoFlush
  dsimp only
  rw [freeEntry_claimEnded, claimEnded_entry_self, claimFreed_setQueue]
  refine ⟨fun b => ?_, fun r => ?_, entryFreed ..⟩
  · rw [State.agent, dropReference_agents]
    exact Table.get_set ..
  · rw [State.queue, dropReference_queues]
    exact Table.get_set ..

end Redelivery
end Sys2Proof.Machine

end

section

-- Taken one after the other, the proofs need one thread (see Tests/Slice0.lean).
set_option Elab.async false

namespace Sys2Proof.Machine

section Redelivered

variable {s : State} {a : AgentId} {x : Agent} {e : EntryId} {reason : ReturnReason}

/-- An entry below its limit returns with its count raised (R86, R87). -/
theorem redeliver_returns (live : reason ≠ .retired) (takes : TakesReturns (s.queue (s.entry e).home))
    (below : (s.entry e).redeliveries < (s.queue (s.entry e).home).limit) :
    Returned s (redeliver e reason (claimEnded s a x e)) a x e ((s.entry e).redeliveries + 1) := by
  have entry := claimEnded_entry_self s a x e
  rw [redeliver_below_limit live (by rw [entry]; exact takes) (by rw [entry]; exact below), entry]
  exact returned_returnEntry _

variable (claims : x.claims = (s.agent a).claims.erase e)
include claims

/-- An entry at its limit is moved when it may be (R88, R89). -/
theorem redeliver_moves_entry {d : QueueId} (live : reason ≠ .retired)
    (takes : TakesReturns (s.queue (s.entry e).home))
    (limit : (s.queue (s.entry e).home).limit ≤ (s.entry e).redeliveries) (may : MayMoveTo s e d) :
    ∃ u, Moved s u a x e d ∧ DrainTested u (redeliver e reason (claimEnded s a x e)) (s.entry e).home := by
  have entry := claimEnded_entry_self s a x e
  obtain ⟨u, moved, run⟩ := moved_moveEntry (s := s) (a := a) (x := x) (e := e) d
  rw [redeliver_at_limit live (by rw [entry]; exact takes) (by rw [entry]; exact limit),
    deadLetterPath_moves ((mayMoveTo_claimEnded claims).mpr may), run]
  exact ⟨u, moved, drainTested ..⟩

/-- An entry of a CLOSED queue, or one at its limit that may not be moved, is dropped with notice (R86, R88). -/
theorem redeliver_drops_entry (live : reason ≠ .retired) (drops : DropsWithNotice s e) :
    ∃ u, DroppedWithNotice s u a x e ∧
      DrainTested u (redeliver e reason (claimEnded s a x e)) (s.entry e).home := by
  have entry := claimEnded_entry_self s a x e
  have path : redeliver e reason (claimEnded s a x e) = dropWithNotice e (claimEnded s a x e) := by
    rcases drops with closed | ⟨takes, limit, stays⟩
    · exact redeliver_of_closed (by rw [entry]; exact closed) _
    · rw [redeliver_at_limit live (by rw [entry]; exact takes) (by rw [entry]; exact limit),
        deadLetterPath_drops fun d may => stays d ((mayMoveTo_claimEnded claims).mp may)]
  obtain ⟨u, dropped, run⟩ := dropped_dropWithNotice (s := s) (a := a) (x := x) (e := e)
  rw [path, run]
  exact ⟨u, dropped, drainTested ..⟩

omit claims in
/-- An entry of a FLUSHING queue is dropped into its flush count (R86, R103). -/
theorem redeliver_flushes_entry (flushing : (s.queue (s.entry e).home).state = .flushing) :
    DroppedIntoFlush s (redeliver e reason (claimEnded s a x e)) a x e := by
  rw [redeliver_of_flushing (by rw [claimEnded_entry_self]; exact flushing)]
  exact dropped_dropIntoFlush

end Redelivered

/-! ## RELEASE, COMPLETE and TAKE accepted -/

section Accepted

variable {s : State} {a : AgentId} {h : Word} {e : EntryId} (serves : Serves s a) (names : NamesFrame s h)
  (oldest : OldestClaim s a (handleIndex h) e)
include serves names oldest

theorem exec_release_accepted : exec (.release a h) s =
    .next (redeliver e .released
      (claimEnded s a
        { withoutClaim s a e with last := { code := .ok, action := .release, operand := h } } e)) := by
  obtain ⟨_, claims⟩ := oldest.claimsOn_cons
  change execRelease a h s = _
  rw [execRelease, writeAccess_of_takes serves.portTakes, claimRefusal_none serves names oldest, claims]
  dsimp only
  rw [releaseClaim, redeliver_answer, unbindWithoutClaim_endClaim, claimEnded_answer]

theorem exec_complete_accepted : exec (.complete a h) s =
    .next ((completeClaim a e s).answer a .ok .complete h) := by
  obtain ⟨_, claims⟩ := oldest.claimsOn_cons
  change execComplete a h s = _
  rw [execComplete, writeAccess_of_takes serves.portTakes, claimRefusal_none serves names oldest, claims]

theorem exec_take_accepted (alone : (s.frame (handleIndex h)).refs = 1) : exec (.take a h) s =
    .next ((takeClaim a e s).answer a .ok .take h) := by
  obtain ⟨_, claims⟩ := oldest.claimsOn_cons
  have passes : takeRefusal s a h = none := by
    simp [takeRefusal, firstRefusal_cons, claimRefusal_none serves names oldest, alone, refuseIf]
  change execTake a h s = _
  rw [execTake, writeAccess_of_takes serves.portTakes, passes, claims]

end Accepted

/-- The claim `e` of agent `a` has ended, its entry is freed and its reference dropped; its binding has not been
looked at (R71). -/
def claimDropped (s : State) (a : AgentId) (e : EntryId) : State :=
  dropReference (s.entry e).frame
    (claimFreed s a { s.agent a with claims := (s.agent a).claims.erase e } e s.queues)

theorem claimDropped_agent (s : State) (a b : AgentId) (e : EntryId) : (claimDropped s a e).agent b =
    if b = a then { s.agent a with claims := (s.agent a).claims.erase e } else s.agent b := by
  rw [State.agent, claimDropped, dropReference_agents]
  exact Table.get_set ..

theorem claimDropped_entry_frame (s : State) (a : AgentId) (e d : EntryId) :
    ((claimDropped s a e).entry d).frame = (s.entry d).frame := by
  have entry : (claimDropped s a e).entry d = _ := (entryFreed ..).1 d
  rw [entry]
  split
  · rename_i same; rw [same]; rfl
  · rfl

/-- A completed claim is dropped, its binding looked at, and drain completion tested on its home queue (R71). -/
theorem completeClaim_eq (a : AgentId) (e : EntryId) (s : State) : completeClaim a e s =
    drainCompletion (s.entry e).home ((claimDropped s a e).setAgent a (withoutClaim s a e)) := by
  unfold completeClaim
  dsimp only
  rw [endClaim_eq_claimEnded, freeEntry_claimEnded, ← claimDropped, unbindWithoutClaim_eq_withoutClaim]
  · rw [claimDropped_agent, if_pos rfl]
  · exact claimDropped_entry_frame s a e

/-- The claim is completed, whatever the agent's context becomes. -/
theorem completed_claimDropped (s : State) (a : AgentId) (x : Agent) (e : EntryId) :
    Completed s ((claimDropped s a e).setAgent a x) a x e := by
  refine ⟨fun b => ?_, dropReference_queues .., (entryFreed ..).setAgent ..⟩
  rw [State.setAgent_agent, claimDropped_agent]
  split <;> rfl

/-- Settles O13: the claim is dropped; the answer can be written before the drain test. -/
theorem completeEndsOldestClaim : Obligations.CompleteEndsOldestClaim := by
  intro s a h e serves names oldest
  have run := exec_complete_accepted serves names oldest
  rw [completeClaim_eq, drainCompletion_answer, State.setAgent_answer] at run
  exact ⟨_, _, run, completed_claimDropped .., drainTested ..⟩

/-- The claim has become a hold, whatever the agent's context becomes: its entry is freed and its frame HELD
(R72). -/
theorem taken_claimFreed (s : State) (a : AgentId) (x y : Agent) (e : EntryId) :
    Taken s
      (((claimFreed s a y e s.queues).setFrame (s.entry e).frame
        { s.frame (s.entry e).frame with state := .held, holder := some a }).setAgent a x) a x e := by
  refine ⟨fun b => ?_, fun g => Table.get_set .., fun d => Table.get_set .., rfl, ⟨rfl, rfl⟩, ?_⟩
  · rw [State.setAgent_agent]
    split
    · rfl
    · rename_i other
      exact (Table.get_set ..).trans (if_neg other)
  · simp only [claimFreed, State.setFrame, State.setAgent]

/-- A taken claim is freed, its frame held, and drain completion tested on its home queue (R72). -/
theorem takeClaim_eq (a : AgentId) (e : EntryId) (s : State) :
    let x : Agent := { s.agent a with claims := (s.agent a).claims.erase e }
    takeClaim a e s = drainCompletion (s.entry e).home
      (((claimFreed s a x e s.queues).setFrame (s.entry e).frame
        { s.frame (s.entry e).frame with state := .held, holder := some a }).setAgent a
          { x with held := x.held ++ [(s.entry e).frame] }) := by
  have own (y : Agent) : (claimFreed s a y e s.queues).agent a = y := Table.get_set_self ..
  dsimp only
  unfold takeClaim
  dsimp only
  rw [endClaim_eq_claimEnded, freeEntry_claimEnded, joinHeld, State.setFrame_agent, own]
  rfl

/-- Settles O14: the claim becomes a hold; the answer can be written before the drain test. -/
theorem takeTurnsClaimIntoHold : Obligations.TakeTurnsClaimIntoHold := by
  intro s a h e serves names oldest alone
  have run := exec_take_accepted serves names oldest alone
  have ⟨_, _, _, frame, _⟩ := oldest
  rw [takeClaim_eq, drainCompletion_answer, State.setAgent_answer] at run
  rw [← frame]
  exact ⟨_, _, run, taken_claimFreed .., drainTested ..⟩

/-- Settles O15: the redelivery path of an entry below its limit. -/
theorem releaseReturnsEntry : Obligations.ReleaseReturnsEntry := by
  intro s a h e serves names oldest takes below
  exact ⟨_, exec_release_accepted serves names oldest, redeliver_returns nofun takes below⟩

/-- Settles O16: the redelivery path of an entry at its limit that may be moved. -/
theorem releaseMovesToDeadLetterQueue : Obligations.ReleaseMovesToDeadLetterQueue := by
  intro s a h e d serves names oldest takes limit may
  have claims : (withoutClaim s a e).claims = (s.agent a).claims.erase e := rfl
  obtain ⟨u, moved, tested⟩ := redeliver_moves_entry (reason := .released)
    (x := { withoutClaim s a e with last := { code := .ok, action := .release, operand := h } })
    claims nofun takes limit may
  exact ⟨u, _, exec_release_accepted serves names oldest, moved, tested⟩

/-- Settles O17: the redelivery path of an entry that is dropped. -/
theorem releaseDropsEntry : Obligations.ReleaseDropsEntry := by
  intro s a h e serves names oldest released
  have run := exec_release_accepted serves names oldest
  refine ⟨fun drops => ?_, fun flushing => ⟨_, run, redeliver_flushes_entry flushing⟩⟩
  obtain ⟨u, dropped, tested⟩ := redeliver_drops_entry (x := released) (reason := .released) rfl nofun drops
  exact ⟨u, _, run, dropped, tested⟩

end Sys2Proof.Machine

end

section

-- Taken one after the other, the proofs need one thread (see Tests/Slice0.lean).
set_option Elab.async false

namespace Sys2Proof.Machine

/-! ## The last claim of a DRAINING queue -/

/-- The claim count of a queue falls when a claim of its own ends and no entry comes to it. -/
theorem claimCount_lt {s u : State} {a : AgentId} {e : EntryId} (mem : e ∈ (s.agent a).claims)
    (claims : ∀ b, (u.agent b).claims = if b = a then (s.agent a).claims.erase e else (s.agent b).claims)
    (homes : ∀ d, (u.entry d).home = (s.entry e).home → (s.entry d).home = (s.entry e).home) :
    claimCount u (s.entry e).home < claimCount s (s.entry e).home := by
  let q := (s.entry e).home
  have fewer (l : List EntryId) : (l.filter fun d => (u.entry d).home == q).length ≤
      (l.filter fun d => (s.entry d).home == q).length := by
    simp only [← List.countP_eq_length_filter]
    refine List.countP_mono_left fun d _ home => ?_
    simpa using homes d (by simpa using home)
  have own : e ∈ claimsOfQueue s q a := by simp [claimsOfQueue, mem, q]
  unfold claimCount
  rw [← Fin.sum_univ_def, ← Fin.sum_univ_def]
  refine Finset.sum_lt_sum (fun b _ => ?_) ⟨a, Finset.mem_univ a, ?_⟩
  · unfold claimsOfQueue
    rw [claims]
    split
    · rename_i same
      rw [same]
      exact (fewer _).trans ((List.erase_sublist.filter _).length_le)
    · exact fewer _
  · unfold claimsOfQueue at own ⊢
    rw [claims, if_pos rfl]
    refine (fewer _).trans_lt ?_
    rw [← List.erase_filter, List.length_erase_of_mem own]
    exact Nat.sub_lt (List.length_pos_of_mem own) one_pos

/-- An agent's context replaced by one without the claim takes the claim off, and no other. -/
theorem claims_of_onlyAgent {s u : State} {a : AgentId} {x : Agent} {e : EntryId}
    (claims : x.claims = (s.agent a).claims.erase e) (agents : OnlyAgent s u a x) (b : AgentId) :
    (u.agent b).claims = if b = a then (s.agent a).claims.erase e else (s.agent b).claims := by
  rw [agents b]
  split
  · exact claims
  · rfl

/-- The same, when the source agent has been told. -/
theorem SourceTold.claims {s u : State} {a : AgentId} {x : Agent} {e : EntryId} {outcome : NoticeOutcome}
    (told : SourceTold s u a x e outcome) (claims : x.claims = (s.agent a).claims.erase e) (b : AgentId) :
    (u.agent b).claims = if b = a then (s.agent a).claims.erase e else (s.agent b).claims := by
  have context : (if b = a then x else s.agent b).claims =
      if b = a then (s.agent a).claims.erase e else (s.agent b).claims := by
    split
    · exact claims
    · rfl
  rw [told b, ← context]
  dsimp only
  split
  · exact noticed_claims ..
  · rfl

/-- A change of the record of `e` alone brings no other entry to the home queue that `e` had. -/
theorem homes_of_onlyEntry {s u : State} {e : EntryId} {y : Entry} (entries : OnlyEntry s u e y) (d : EntryId)
    (home : (u.entry d).home = (s.entry e).home) : (s.entry d).home = (s.entry e).home := by
  rw [entries d] at home
  split at home
  · rename_i same; rw [same]
  · exact home

/-- The source agent that is also the drain's requester hears of its frame before it hears of the queue
(R138). -/
theorem notices_of_told_and_closed {s u t : State} {a : AgentId} {x : Agent} {e : EntryId} {q : QueueId}
    {outcome : NoticeOutcome} {y : Agent}
    (context : y = if (s.frame (s.entry e).frame).source = a then x
      else s.agent (s.frame (s.entry e).frame).source)
    (told : SourceTold s u a x e outcome)
    (closes : DrainCloses u t q (some (.agent (s.frame (s.entry e).frame).source)))
    (online : y.state = .online) (room : y.notices.length ≤ 14) :
    (t.agent (s.frame (s.entry e).frame).source).notices =
      y.notices ++ [undeliveredNotice s e outcome, closedNotice q] := by
  obtain ⟨-, agents, -⟩ := closes
  rw [agents, if_pos rfl, told]
  dsimp only
  rw [if_pos rfl, ← context]
  have first : y.notices.length < 16 := by omega
  have second : y.notices.length + 1 < 16 := by omega
  simp [noticed, online, first, second]

section LastClaim

variable {s u t : State} {a : AgentId} {e : EntryId} {r : Requester}
  (draining : (s.queue (s.entry e).home).state = .draining) (queued : queuedCount s (s.entry e).home = 0)
  (last : claimCount s (s.entry e).home = 1) (requester : (s.queue (s.entry e).home).requester = some r)
  (mem : e ∈ (s.agent a).claims)
include draining queued last requester mem

/-- When the last claim of a DRAINING queue has ended, the drain test closes the queue (R99). -/
theorem drainCloses_of_lastClaim {n : Nat}
    (claims : ∀ b, (u.agent b).claims = if b = a then (s.agent a).claims.erase e else (s.agent b).claims)
    (homes : ∀ d, (u.entry d).home = (s.entry e).home → (s.entry d).home = (s.entry e).home)
    (home : u.queue (s.entry e).home = { s.queue (s.entry e).home with discards := n })
    (tested : DrainTested u t (s.entry e).home) : DrainCloses u t (s.entry e).home (some r) := by
  have none_left : claimCount u (s.entry e).home = 0 := by
    have := claimCount_lt mem claims homes
    omega
  have empty : queuedCount u (s.entry e).home = 0 := by
    rw [queuedCount, home]
    exact queued
  unfold DrainTested at tested
  rwa [if_pos ⟨by rw [home]; exact draining, empty, none_left⟩, home, requester] at tested

variable {x : Agent} (claims : x.claims = (s.agent a).claims.erase e)
  (tested : DrainTested u t (s.entry e).home)
include claims tested

theorem Completed.drainCloses (ended : Completed s u a x e) :
    DrainCloses u t (s.entry e).home (some r) := by
  obtain ⟨agents, queues, entries, -⟩ := ended
  have home : u.queue (s.entry e).home = s.queue (s.entry e).home :=
    congrArg (fun t : Table Queue 32 => t.get (s.entry e).home) queues
  exact drainCloses_of_lastClaim draining queued last requester mem (claims_of_onlyAgent claims agents)
    (homes_of_onlyEntry entries) home tested

theorem Taken.drainCloses (ended : Taken s u a x e) : DrainCloses u t (s.entry e).home (some r) := by
  obtain ⟨agents, -, entries, -, -, rest⟩ := ended
  have queues := congrArg State.queues rest
  have home : u.queue (s.entry e).home = s.queue (s.entry e).home :=
    congrArg (fun t : Table Queue 32 => t.get (s.entry e).home) queues
  exact drainCloses_of_lastClaim draining queued last requester mem (claims_of_onlyAgent claims agents)
    (homes_of_onlyEntry entries) home tested

theorem Moved.drainCloses {d : QueueId} (other : d ≠ (s.entry e).home) (ended : Moved s u a x e d) :
    DrainCloses u t (s.entry e).home (some r) := by
  obtain ⟨told, entries, queues, -⟩ := ended
  exact drainCloses_of_lastClaim draining queued last requester mem (told.claims claims)
    (homes_of_onlyEntry entries) ((queues _).trans (if_neg other.symm)) tested

theorem DroppedWithNotice.drainCloses (ended : DroppedWithNotice s u a x e) :
    DrainCloses u t (s.entry e).home (some r) := by
  obtain ⟨told, queues, entries, -⟩ := ended
  exact drainCloses_of_lastClaim draining queued last requester mem (told.claims claims)
    (homes_of_onlyEntry entries) ((queues _).trans (if_pos rfl)) tested

end LastClaim

/-- An expiry handed over ends its claim, tells the claimant, and runs the redelivery path (R85). -/
theorem exec_claimExpiry {s : State} {a : AgentId} {e : EntryId} {rest : List EntryId}
    (front : s.handedOver = e :: rest) (claimant : (s.entry e).claimant = some a) :
    exec .claimExpiry s = .next (redeliver e .expired
      (claimEnded s a
        (noticed (withoutClaim s a e)
          (expiredNotice s e ((returnCount s e).getD (s.entry e).redeliveries))) e)) := by
  have notice (x : Agent) : claimExpired (claimEnded s a x e) e =
      expiredNotice s e ((returnCount s e).getD (s.entry e).redeliveries) := by
    simp only [claimExpired, returnCount, claimEnded_entry_self, claimEnded_queue]
    rfl
  change execClaimExpiry s = _
  simp only [execClaimExpiry, front, claimant, expireClaim]
  rw [unbindWithoutClaim_endClaim, notice, claimEnded_offerNotice]

/-- An entry at its limit keeps its redelivery count (R86). -/
theorem returnCount_at_limit {s : State} {e : EntryId}
    (limit : (s.queue (s.entry e).home).limit ≤ (s.entry e).redeliveries) : returnCount s e = none := by
  unfold returnCount
  dsimp only
  split <;> simp [limit]

/-- Settles O18: each end of the claim is one of the statements before it or its redelivery path, and its drain
test closes the queue (`drainCloses_of_lastClaim`). -/
theorem lastClaimClosesDrainingQueue : Obligations.LastClaimClosesDrainingQueue := by
  intro s a e r q source draining queued last requester mem bothTold closes atLimit
  have path (c : Instr) (x : Agent) (reason : ReturnReason) (live : reason ≠ .retired)
      (claims : x.claims = (s.agent a).claims.erase e)
      (run : exec c s = .next (redeliver e reason (claimEnded s a x e))) : atLimit c x := by
    intro limit
    have takes : TakesReturns (s.queue (s.entry e).home) := .inr (.inr draining)
    refine ⟨fun d may => ?_, fun stays => ?_⟩
    · obtain ⟨u, moved, tested⟩ := redeliver_moves_entry claims live takes limit may
      have closed := moved.drainCloses draining queued last requester mem claims tested may.2.1
      refine ⟨u, _, run, moved, closed, fun told => ?_⟩
      exact notices_of_told_and_closed rfl moved.1 (told ▸ closed)
    · obtain ⟨u, dropped, tested⟩ := redeliver_drops_entry claims live (.inr ⟨takes, limit, stays⟩)
      have closed := dropped.drainCloses draining queued last requester mem claims tested
      refine ⟨u, _, run, dropped, closed, fun told => ?_⟩
      exact notices_of_told_and_closed rfl dropped.1 (told ▸ closed)
  refine ⟨fun h serves names oldest => ⟨?_, fun alone => ?_, ?_⟩, fun rest front claimant => ?_⟩
  · obtain ⟨u, t, run, completed, tested⟩ := completeEndsOldestClaim s a h e serves names oldest
    exact ⟨u, t, run, completed,
      completed.drainCloses draining queued last requester mem rfl tested, trivial⟩
  · obtain ⟨u, t, run, taken, tested⟩ := takeTurnsClaimIntoHold s a h e serves names oldest alone
    exact ⟨u, t, run, taken, taken.drainCloses draining queued last requester mem rfl tested, trivial⟩
  · exact path _ _ .released nofun rfl (exec_release_accepted serves names oldest)
  · intro limit
    have run := exec_claimExpiry front claimant
    rw [returnCount_at_limit limit] at run
    exact path _ _ .expired nofun (noticed_claims ..) run limit

end Sys2Proof.Machine

end

/-!
Claim expiry: the timebase and its ticks (R79, R80, R84), the expiry of a claim (R85 to R91), and the claim step of a
retire (R120).
-/

section

-- Taken one after the other, the proofs need one thread (see Tests/Slice0.lean).
set_option Elab.async false

namespace Sys2Proof.Machine

/-! ## The divider and the tick -/

/-- The divider stands still in INIT and while an expiry is handed over (R79, R84). -/
theorem dividerCounts_eq_true_iff (s : State) :
    dividerCounts s = true ↔ s.controller ≠ .init ∧ s.handedOver = [] := by
  simp [dividerCounts]

theorem dividerCounts_eq_false_iff (s : State) :
    dividerCounts s = false ↔ s.controller = .init ∨ s.handedOver ≠ [] := by
  rw [← Bool.not_eq_true, dividerCounts_eq_true_iff, not_and_or, not_not]

/-- While the divider counts, TICK is the tick (R79). -/
theorem exec_tick_of_counts {s : State} (counts : dividerCounts s = true) :
    exec .tick s = .next (tickNow s) := by
  change execTick s = _
  rw [execTick, if_pos counts]

theorem step_of_empty {s : State} (empty : s.pending = []) : step s = .next (clockPeriod s) := by
  rw [step, empty]

/-- Settles O2: the cases of one TCLK period. -/
theorem emptyQueueCountsOnePeriod : Obligations.EmptyQueueCountsOnePeriod := by
  intro s empty
  rw [step_of_empty empty, clockPeriod]
  refine ⟨fun still => ?_, fun counts => ?_⟩
  · rw [(dividerCounts_eq_false_iff s).mpr still]
    rfl
  · have counts := (dividerCounts_eq_true_iff s).mpr counts
    rw [exec_tick_of_counts counts, if_pos counts]
    exact ⟨fun more => by rw [if_neg (by omega)], fun complete => by rw [if_pos complete]⟩

/-- The entry falls due at the next tick (R84). -/
def dueNext (s : State) (e : EntryId) : Bool := (s.entry e).deadline == some (s.timebase + 1)

theorem dueNext_iff (s : State) (e : EntryId) :
    dueNext s e = true ↔ (s.entry e).deadline = some (s.timebase + 1) := beq_iff_eq

theorem tickNow_handedOver (s : State) : (tickNow s).handedOver = s.deadlines.takeWhile (dueNext s) := rfl

/-- Settles O20: the entries handed over and the rest are the deadline list split at the first entry not due. -/
theorem tickHandsOverDueClaims : Obligations.TickHandsOverDueClaims := by
  intro s running none
  refine ⟨tickNow s, s.deadlines.takeWhile (dueNext s), s.deadlines.dropWhile (dueNext s),
    exec_tick_of_counts ((dividerCounts_eq_true_iff s).mpr ⟨running, none⟩), rfl, rfl, rfl,
    tickNow_handedOver s, List.takeWhile_append_dropWhile.symm, fun e he => ?_, fun e he => ?_, rfl⟩
  · exact (dueNext_iff s e).mp (List.mem_takeWhile_imp he)
  · have first := List.head?_dropWhile_not (dueNext s) s.deadlines
    rw [Option.mem_def.mp he] at first
    simpa [dueNext] using first

/-! ## The expiry of a claim -/

/-- An entry below its limit returns with its count raised by 1 (R86). -/
theorem returnCount_below_limit {s : State} {e : EntryId} (takes : TakesReturns (s.queue (s.entry e).home))
    (below : (s.entry e).redeliveries < (s.queue (s.entry e).home).limit) :
    returnCount s e = some ((s.entry e).redeliveries + 1) := by
  rcases takes with h | h | h <;> simp [returnCount, h, below]

/-- An entry whose home queue takes no returns does not return (R86). -/
theorem returnCount_of_not_takes {s : State} {e : EntryId} (h : ¬TakesReturns (s.queue (s.entry e).home)) :
    returnCount s e = none := by
  unfold returnCount TakesReturns at *
  cases hs : (s.queue (s.entry e).home).state <;> simp_all

/-- An entry that is dropped with notice keeps its redelivery count (R86). -/
theorem DropsWithNotice.returnCount {s : State} {e : EntryId} (drops : DropsWithNotice s e) :
    returnCount s e = none := by
  rcases drops with closed | ⟨-, limit, -⟩
  · exact returnCount_of_not_takes (by simp [TakesReturns, closed])
  · exact returnCount_at_limit limit

/-- Settles O19: the expiry runs the redelivery path on the claim it has ended (`exec_claimExpiry`), each clause with
the count that the entry then has. -/
theorem expiryEndsClaim : Obligations.ExpiryEndsClaim := by
  intro s a e rest front claimant
  have run := exec_claimExpiry front claimant
  have claims (m : Nat) : (noticed (withoutClaim s a e) (expiredNotice s e m)).claims =
      (s.agent a).claims.erase e := noticed_claims ..
  refine ⟨fun takes below => ?_, fun takes limit d may => ?_, fun drops => ?_, fun flushing => ?_⟩
  · rw [returnCount_below_limit takes below] at run
    exact ⟨_, run, redeliver_returns nofun takes below⟩
  · rw [returnCount_at_limit limit] at run
    obtain ⟨u, moved, tested⟩ := redeliver_moves_entry (reason := .expired) (claims _) nofun takes limit may
    exact ⟨u, _, run, moved, tested⟩
  · rw [drops.returnCount] at run
    obtain ⟨u, dropped, tested⟩ := redeliver_drops_entry (reason := .expired) (claims _) nofun drops
    exact ⟨u, _, run, dropped, tested⟩
  · rw [returnCount_of_not_takes (by simp [TakesReturns, flushing])] at run
    exact ⟨_, run, redeliver_flushes_entry flushing⟩

/-! ## The claim step of a retire -/

/-- An agent that is not ONLINE takes no notice (R136). -/
theorem noticed_of_not_online {x : Agent} (h : x.state ≠ .online) (n : Notice) : noticed x n = x := by
  rw [noticed, if_neg h]

section RetireClaim

variable {s : State} {a : AgentId} {e : EntryId} {front : List EntryId}

/-- The claims that remain when the newest has ended (R120). -/
theorem claims_erase_newest (claims : (s.agent a).claims = front ++ [e]) (once : e ∉ front) :
    (s.agent a).claims.erase e = front := by
  rw [claims, List.erase_append_right _ once, List.erase_cons_head, List.append_nil]

/-- A claim step runs the redelivery path on the newest claim and counts it (R120). -/
theorem exec_retireClaimStep (retiring : (s.agent a).state = .retiring)
    (claims : (s.agent a).claims = front ++ [e]) (once : e ∉ front) :
    exec (.retireClaimStep a) s =
      let u := redeliver e .retired (claimEnded s a { s.agent a with claims := front } e)
      .next (u.setAgent a
        (if countsAsReturned (s.queue (s.entry e).home).state then
          { u.agent a with returned := (u.agent a).returned + 1 }
        else { u.agent a with dropped := (u.agent a).dropped + 1 })) := by
  change execRetireClaimStep a s = _
  rw [execRetireClaimStep, if_pos retiring, claims, List.getLast?_concat]
  dsimp only
  rw [retireClaim, endClaim_eq_claimEnded, claims_erase_newest claims once]

theorem countsAsReturned_iff (x : Queue) : countsAsReturned x.state = true ↔ TakesReturns x := by
  unfold TakesReturns
  cases x.state <;> simp [countsAsReturned]

/-- An entry that is dropped when its home queue is CLOSED: no drain can end there (R90, R99). -/
theorem redeliver_closed_entry {x : Agent} {reason : ReturnReason}
    (closed : (s.queue (s.entry e).home).state = .closed) :
    DroppedWithNotice s (redeliver e reason (claimEnded s a x e)) a x e := by
  obtain ⟨u, dropped, run⟩ := dropped_dropWithNotice (s := s) (a := a) (x := x) (e := e)
  have stays : (u.queue (s.entry e).home).state ≠ .draining := by
    rw [dropped.2.1, if_pos rfl]
    simp [closed]
  rw [redeliver_of_closed (by rw [claimEnded_entry_self]; exact closed), run,
    drainCompletion_of_not_draining _ _ stays]
  exact dropped

/-- A retiring agent's entry returns with its count as it is (R86, R87). -/
theorem redeliver_retired_entry {x : Agent} (takes : TakesReturns (s.queue (s.entry e).home)) :
    Returned s (redeliver e .retired (claimEnded s a x e)) a x e (s.entry e).redeliveries := by
  have entry := claimEnded_entry_self s a x e
  rw [redeliver_retired (by rw [entry]; exact takes), entry]
  exact returned_returnEntry _

end RetireClaim

/-- Settles O30: the outcomes of the redelivery path, then the count of the step. A RETIRING agent takes no notice, so
its count does not depend on who is told. -/
theorem retireClaimStepReturnsNewest : Obligations.RetireClaimStepReturnsNewest := by
  intro s a e front retiring claims once
  have run := exec_retireClaimStep retiring claims once
  have counted := countsAsReturned_iff (s.queue (s.entry e).home)
  refine ⟨fun takes => ?_, fun dropped => ?_⟩
  · have returned := redeliver_retired_entry (s := s) (a := a) (e := e)
      (x := { s.agent a with claims := front }) takes
    dsimp only at run
    rw [counted.mpr takes, if_pos rfl] at run
    generalize redeliver e .retired _ = u at run returned
    obtain ⟨agents, entries, queues, deadlines, only⟩ := returned
    refine ⟨_, run, fun b => ?_, entries, queues, deadlines, only⟩
    rw [State.setAgent_agent, agents, if_pos rfl]
    split
    · rfl
    · rename_i other
      rw [agents, if_neg other]
  · have stays : countsAsReturned (s.queue (s.entry e).home).state = false := by
      rcases dropped with h | h <;> rw [h] <;> rfl
    dsimp only at run
    rw [stays] at run
    have own (n : Notice) (x : Agent) (state : x.state = (s.agent a).state) : noticed x n = x :=
      noticed_of_not_online (by rw [state, retiring]; exact nofun) n
    rcases dropped with closed | flushing
    · have dropped := redeliver_closed_entry (s := s) (a := a) (e := e) (reason := .retired)
        (x := { s.agent a with claims := front }) closed
      generalize redeliver e .retired _ = u at run dropped
      obtain ⟨told, queues, entries, free, deadlines, reference, only⟩ := dropped
      refine ⟨_, run, fun b => ?_, entries, free, ?_, deadlines, reference, only⟩
      · rw [State.setAgent_agent, told, told]
        by_cases same : b = a
        · simp [same, closed, own]
        · simp [same, closed]
      · rw [if_pos closed]
        exact queues
    · have dropped := redeliver_flushes_entry (s := s) (a := a) (e := e) (reason := .retired)
        (x := { s.agent a with claims := front }) flushing
      have notClosed : (s.queue (s.entry e).home).state ≠ .closed := by rw [flushing]; exact nofun
      generalize redeliver e .retired _ = u at run dropped
      obtain ⟨agents, queues, entries, free, deadlines, reference, only⟩ := dropped
      refine ⟨_, run, fun b => ?_, entries, free, ?_, deadlines, reference, only⟩
      · rw [State.setAgent_agent, agents, agents]
        by_cases same : b = a <;> simp [same, notClosed]
      · rw [if_neg notClosed]
        exact queues

end Sys2Proof.Machine

end

/-!
What a command can do to the controller, the ports and the timer. `Calm rest s t` says that `t` differs from `s` in
nothing that the laws of the controller, the ports and the deadlines speak of, but for what traffic changes in
RUNNING; `Change` lists the other changes; and every command but the release of a port's reset line is one
(`exec_change_of_not_release`). Each of those laws is then proved once for each change.
-/

section

-- Taken one after the other, the proofs need one thread (see Tests/Slice0.lean).
set_option Elab.async false

namespace Sys2Proof.Machine

/-! ## The part without traffic -/

/-- R84, R108, R149, R151: what `ControllerLaw` says of the part outside RUNNING. -/
structure NoTraffic (s : State) : Prop where
  agents : ∀ a, (s.agent a).state = .offline
  queues : ∀ q, (s.queue q).state = .disabled
  deadlines : s.deadlines = []
  handedOver : s.handedOver = []
  scrubList : s.scrubList = []
  activeTotal : s.activeTotal = 0

theorem controllerLaw_iff (s : State) : ControllerLaw s ↔
    (s.controller ≠ .running → NoTraffic s) ∧ (s.porst = true → s.controller = .init) ∧
      s.events.length ≤ 16 := by
  refine and_congr_left fun _ => imp_congr_right fun _ => ⟨?_, fun h => ?_⟩
  · rintro ⟨agents, queues, deadlines, handedOver, scrubList, activeTotal⟩
    exact ⟨agents, queues, deadlines, handedOver, scrubList, activeTotal⟩
  · exact ⟨h.agents, h.queues, h.deadlines, h.handedOver, h.scrubList, h.activeTotal⟩

/-- What is not as outside RUNNING shows that the part is RUNNING. -/
theorem ControllerLaw.running {s : State} (law : ControllerLaw s) (traffic : ¬NoTraffic s) :
    s.controller = .running := by
  by_contra other
  exact traffic (((controllerLaw_iff s).mp law).1 other)

theorem NoTraffic.of_records {s t : State} (h : NoTraffic s) (agents : t.agents = s.agents := by rfl)
    (queues : t.queues = s.queues := by rfl) (deadlines : t.deadlines = s.deadlines := by rfl)
    (handedOver : t.handedOver = s.handedOver := by rfl) (scrubList : t.scrubList = s.scrubList := by rfl)
    (activeTotal : t.activeTotal = s.activeTotal := by rfl) : NoTraffic t where
  agents a := by rw [State.agent, agents]; exact h.agents a
  queues q := by rw [State.queue, queues]; exact h.queues q
  deadlines := deadlines.trans h.deadlines
  handedOver := handedOver.trans h.handedOver
  scrubList := scrubList.trans h.scrubList
  activeTotal := activeTotal.trans h.activeTotal

/-! ## Changes that the laws of the controller and of the ports allow -/

/-- The controller, the pins and the held accesses are the same and the event list is within its bound; and if `rest`,
a part without traffic stays without. -/
structure Still (rest : Prop) (s t : State) : Prop where
  controller : t.controller = s.controller
  porst : t.porst = s.porst
  events : s.events.length ≤ 16 → t.events.length ≤ 16
  resetLine : ∀ p, t.resetLine p = s.resetLine p
  heldAccesses : ∀ p, t.heldAccesses p = s.heldAccesses p
  noTraffic : rest → NoTraffic s → NoTraffic t

theorem Still.trans {rest : Prop} {s t u : State} (h : Still rest s t) (k : Still rest t u) :
    Still rest s u where
  controller := k.controller.trans h.controller
  porst := k.porst.trans h.porst
  events b := k.events (h.events b)
  resetLine p := (k.resetLine p).trans (h.resetLine p)
  heldAccesses p := (k.heldAccesses p).trans (h.heldAccesses p)
  noTraffic r n := k.noTraffic r (h.noTraffic r n)

/-- `Still.trans` with the last change first. -/
theorem Still.after {rest : Prop} {s t u : State} (k : Still rest t u) (h : Still rest s t) :
    Still rest s u := h.trans k

/-- An update that replaces no record of the controller, the pins, the ports and the events. -/
theorem Still.of_records {rest : Prop} {s t : State}
    (noTraffic : rest → NoTraffic s → NoTraffic t)
    (controller : t.controller = s.controller := by rfl) (porst : t.porst = s.porst := by rfl)
    (events : t.events = s.events := by rfl) (rstA : t.rstA = s.rstA := by rfl)
    (rstB : t.rstB = s.rstB := by rfl) (heldA : t.heldA = s.heldA := by rfl)
    (heldB : t.heldB = s.heldB := by rfl) : Still rest s t where
  controller := controller
  porst := porst
  events b := events ▸ b
  resetLine p := by cases p <;> assumption
  heldAccesses p := by cases p <;> assumption
  noTraffic := noTraffic

/-! ## Changes that the law of the deadlines allows -/

/-- The entry is no claim with a deadline. -/
def Untimed (x : Entry) : Prop := x.place ≠ .claimed ∨ x.deadline = none

/-- The timer is the same, and the records of the claims with a deadline, as far as the law of the deadlines speaks
of them; the other entries carry no new deadline. -/
structure TimerKept (s t : State) : Prop where
  deadlines : t.deadlines = s.deadlines
  handedOver : t.handedOver = s.handedOver
  timebase : t.timebase = s.timebase
  place : ∀ e, (t.entry e).place = (s.entry e).place ∨ Untimed (s.entry e)
  deadline : ∀ e, (t.entry e).deadline = (s.entry e).deadline ∨
    Untimed (s.entry e) ∧ (t.entry e).deadline = none

theorem TimerKept.trans {s t u : State} (h : TimerKept s t) (k : TimerKept t u) : TimerKept s u := by
  have untimed (e : EntryId) (hu : Untimed (t.entry e)) : Untimed (s.entry e) := by
    rcases h.place e with place | untimed
    · rcases h.deadline e with deadline | ⟨untimed, -⟩
      · unfold Untimed at hu ⊢
        rwa [place, deadline] at hu
      · exact untimed
    · exact untimed
  exact
    { deadlines := k.deadlines.trans h.deadlines
      handedOver := k.handedOver.trans h.handedOver
      timebase := k.timebase.trans h.timebase
      place := fun e => by
        rcases k.place e with place | hu
        · rw [place]; exact h.place e
        · exact .inr (untimed e hu)
      deadline := fun e => by
        rcases k.deadline e with deadline | ⟨hu, none⟩
        · rw [deadline]; exact h.deadline e
        · exact .inr ⟨untimed e hu, none⟩ }

/-- `TimerKept.trans` with the last change first. -/
theorem TimerKept.after {s t u : State} (k : TimerKept t u) (h : TimerKept s t) : TimerKept s u := h.trans k

theorem TimerKept.of_records {s t : State} (entries : t.entries = s.entries := by rfl)
    (deadlines : t.deadlines = s.deadlines := by rfl) (handedOver : t.handedOver = s.handedOver := by rfl)
    (timebase : t.timebase = s.timebase := by rfl) : TimerKept s t where
  deadlines := deadlines
  handedOver := handedOver
  timebase := timebase
  place e := .inl (by rw [State.entry, entries]; rfl)
  deadline e := .inl (by rw [State.entry, entries]; rfl)

/-- The record of an entry that is no claim with a deadline may be replaced by one that carries none. -/
theorem TimerKept.setEntry {s : State} {e : EntryId} {x : Entry} (untimed : Untimed (s.entry e))
    (deadline : x.deadline = (s.entry e).deadline ∨ x.deadline = none) : TimerKept s (s.setEntry e x) :=
  { (TimerKept.of_records : TimerKept s s) with
    place := fun d => by
      rw [State.setEntry_entry]
      split
      · rename_i same; exact .inr (same ▸ untimed)
      · exact .inl rfl
    deadline := fun d => by
      rw [State.setEntry_entry]
      split
      · rename_i same; rw [same]; exact deadline.imp id fun none => ⟨untimed, none⟩
      · exact .inl rfl }

/-! ## Both -/

/-- Nothing has changed that the laws of the controller, the ports and the deadlines speak of, but, unless `rest`, what
traffic changes in RUNNING. -/
structure Calm (rest : Prop) (s t : State) : Prop extends Still rest s t, TimerKept s t

section Calm

variable {rest : Prop}

theorem Calm.trans {s t u : State} (h : Calm rest s t) (k : Calm rest t u) : Calm rest s u where
  toStill := h.toStill.trans k.toStill
  toTimerKept := h.toTimerKept.trans k.toTimerKept

/-- `Calm.trans` with the last change first. -/
theorem Calm.after {s t u : State} (k : Calm rest t u) (h : Calm rest s t) : Calm rest s u := h.trans k

/-- In RUNNING what traffic changes is allowed. -/
theorem Still.running {s t : State} (h : Still False s t) (running : s.controller = .running) :
    Still (s.controller ≠ .running) s t := { h with noTraffic := fun other => absurd running other }

theorem Calm.running {s t : State} (h : Calm False s t) (running : s.controller = .running) :
    Calm (s.controller ≠ .running) s t := { h with noTraffic := fun other => absurd running other }

theorem Calm.of_records {s t : State} (controller : t.controller = s.controller := by rfl)
    (porst : t.porst = s.porst := by rfl) (events : t.events = s.events := by rfl)
    (rstA : t.rstA = s.rstA := by rfl) (rstB : t.rstB = s.rstB := by rfl)
    (heldA : t.heldA = s.heldA := by rfl) (heldB : t.heldB = s.heldB := by rfl)
    (agents : t.agents = s.agents := by rfl) (queues : t.queues = s.queues := by rfl)
    (deadlines : t.deadlines = s.deadlines := by rfl) (handedOver : t.handedOver = s.handedOver := by rfl)
    (scrubList : t.scrubList = s.scrubList := by rfl) (activeTotal : t.activeTotal = s.activeTotal := by rfl)
    (entries : t.entries = s.entries := by rfl) (timebase : t.timebase = s.timebase := by rfl) :
    Calm rest s t where
  toStill := .of_records
    (fun _ n => n.of_records agents queues deadlines handedOver scrubList activeTotal)
    controller porst events rstA rstB heldA heldB
  toTimerKept := .of_records entries deadlines handedOver timebase

theorem Calm.refl (s : State) : Calm rest s s := .of_records

theorem Calm.setAgent {s : State} {a : AgentId} {x : Agent} (state : rest → x.state = (s.agent a).state) :
    Calm rest s (s.setAgent a x) :=
  { (Calm.refl s : Calm rest s s) with
    noTraffic := fun r n =>
      { n with
        agents := fun b => by
          rw [State.setAgent_agent]
          split
          · exact (state r).trans (n.agents a)
          · exact n.agents b } }

/-- Replacing an agent's context is calm when it keeps the agent's state. -/
theorem Calm.agentFields {s : State} {a : AgentId} {x : Agent} (state : x.state = (s.agent a).state) :
    Calm rest s (s.setAgent a x) := .setAgent fun _ => state

theorem Calm.setQueue {s : State} {q : QueueId} {x : Queue} (state : rest → x.state = (s.queue q).state) :
    Calm rest s (s.setQueue q x) :=
  { (Calm.refl s : Calm rest s s) with
    noTraffic := fun r n =>
      { n with
        queues := fun b => by
          rw [State.setQueue_queue]
          split
          · exact (state r).trans (n.queues q)
          · exact n.queues b } }

theorem Calm.setEntry {s : State} {e : EntryId} {x : Entry} (untimed : Untimed (s.entry e))
    (deadline : x.deadline = (s.entry e).deadline ∨ x.deadline = none) : Calm rest s (s.setEntry e x) where
  toStill := .of_records fun _ n => n.of_records
  toTimerKept := .setEntry untimed deadline

/-! ### The shared operations -/

theorem Calm.answer (s : State) (a : AgentId) (c : ResultCode) (k : Action) (w : Word) :
    Calm rest s (s.answer a c k w) := .agentFields rfl

theorem Calm.returns (s : State) (p : Port) (w : Word) : Calm rest s (s.returns p w) := by
  cases p <;> exact .of_records

theorem Calm.controlAnswer (s : State) (c : ControlCode) (k : ControlSubject) (n : Nat) :
    Calm rest s (s.controlAnswer c k n) := .of_records

theorem noticed_state (x : Agent) (n : Notice) : (noticed x n).state = x.state := by
  unfold noticed
  split <;> (try split) <;> rfl

theorem Calm.offerNotice (a : AgentId) (n : Notice) (s : State) : Calm rest s (offerNotice a n s) := by
  rw [offerNotice_eq]
  exact .agentFields (noticed_state ..)

/-- An event offered to a list within its bound leaves it within (R142). -/
theorem Calm.offerEvent (e : SupervisorEvent) (s : State) : Calm rest s (offerEvent e s) := by
  rw [offerEvent_eq]
  refine { (Calm.of_records : Calm rest s { s with eventsLost := _ }) with
    events := fun b => ?_, noTraffic := fun _ n => n.of_records }
  dsimp only
  split
  · rw [List.length_append, List.length_singleton]; omega
  · exact b

theorem Calm.report (r : Option Requester) (n : Notice) (e : SupervisorEvent) (s : State) :
    Calm rest s (report r n e s) := by
  rcases r with _ | ⟨a⟩ | _
  · exact .refl s
  · exact .offerNotice a n s
  · exact .offerEvent e s

theorem Calm.unbind (a : AgentId) (f : FrameIdx) (s : State) : Calm rest s (unbind a f s) := by
  rw [unbind_eq]; exact .agentFields rfl

theorem Calm.unbindWithoutClaim (a : AgentId) (f : FrameIdx) (s : State) :
    Calm rest s (unbindWithoutClaim a f s) := by
  rw [unbindWithoutClaim_eq]; exact .agentFields rfl

theorem Calm.drainCompletion (q : QueueId) (s : State) : Calm False s (drainCompletion q s) := by
  rw [drainCompletion_eq]
  split
  · exact .after (.report ..) (.setQueue False.elim)
  · exact .refl s

theorem Calm.lowWaterTest (p : PoolId) (s : State) : Calm rest s (lowWaterTest p s) := by
  unfold Machine.lowWaterTest
  dsimp only
  split
  · exact .after (.offerEvent ..) .of_records
  · exact .refl s

theorem Calm.freePath (f : FrameIdx) (s : State) : Calm False s (freePath f s) := by
  rw [freePath_eq]
  exact { (Calm.refl s : Calm False s s) with noTraffic := False.elim }

theorem Calm.dropReference (f : FrameIdx) (s : State) : Calm False s (dropReference f s) := by
  rw [dropReference_eq]
  split
  · exact .after (.freePath ..) .of_records
  · exact .of_records

theorem Calm.leaveHeld (a : AgentId) (f : FrameIdx) (s : State) : Calm rest s (leaveHeld a f s) :=
  .agentFields rfl

theorem Calm.giveBack (a : AgentId) (f : FrameIdx) (s : State) : Calm False s (giveBack a f s) :=
  .after (.freePath ..) (.after .of_records (.leaveHeld a f s))

theorem Calm.joinHeld (a : AgentId) (f : FrameIdx) (s : State) : Calm rest s (joinHeld a f s) :=
  .agentFields rfl

theorem Calm.allocFrame (a : AgentId) (f : FrameIdx) (s : State) : Calm rest s (allocFrame a f s) :=
  .after (.joinHeld ..) .of_records

theorem Calm.beginRetire (a : AgentId) (c : RetireCause) (s : State) : Calm False s (beginRetire a c s) :=
  { (Calm.refl s : Calm False s s) with noTraffic := False.elim }

/-! ### Entries -/

theorem Calm.freeEntry {s : State} {e : EntryId} (untimed : Untimed (s.entry e)) :
    Calm rest s (freeEntry e s) := by
  have freed : Calm rest s (s.setEntry e { s.entry e with place := .free }) := .setEntry untimed (.inl rfl)
  exact freed.trans .of_records

theorem Calm.returnEntry {s : State} {e : EntryId} (untimed : Untimed (s.entry e)) (n : Nat) :
    Calm False s (returnEntry e n s) := .after (.setQueue False.elim) (.setEntry untimed (.inl rfl))

theorem Calm.moveEntry {s : State} {e : EntryId} (untimed : Untimed (s.entry e)) (d : QueueId) :
    Calm False s (moveEntry e d s) :=
  .after (.drainCompletion ..)
    (.after (.offerNotice ..) (.after (.setQueue False.elim) (.setEntry untimed (.inl rfl))))

theorem Calm.dropIntoFlush {s : State} {e : EntryId} (untimed : Untimed (s.entry e)) :
    Calm False s (dropIntoFlush e s) :=
  .after (.dropReference ..) (.after (.setQueue False.elim) (.freeEntry untimed))

theorem Calm.dropWithNotice {s : State} {e : EntryId} (untimed : Untimed (s.entry e)) :
    Calm False s (dropWithNotice e s) :=
  .after (.drainCompletion ..)
    (.after (.offerNotice ..)
      (.after (.dropReference ..) (.after (.setQueue False.elim) (.freeEntry untimed))))

/-- Whatever the redelivery path does with an entry that has no deadline (R86). -/
theorem Calm.redeliver {s : State} {e : EntryId} (untimed : Untimed (s.entry e)) (r : ReturnReason) :
    Calm False s (redeliver e r s) := by
  have dead : Calm False s (deadLetterPath e s) := by
    unfold deadLetterPath
    split
    · exact .moveEntry untimed _
    · exact .dropWithNotice untimed
  unfold Machine.redeliver
  split
  · exact .dropIntoFlush untimed
  · exact .dropWithNotice untimed
  · exact .dropWithNotice untimed
  all_goals
    split
    · exact .returnEntry untimed _
    all_goals
      split
      · exact .returnEntry untimed _
      · exact dead

end Calm

/-! ### Posting -/

theorem Still.createEntry (f : FrameIdx) (urgent : Bool) (q : QueueId) (s : State) :
    Still False s (createEntry f urgent q s) := by
  unfold Machine.createEntry
  split
  · exact (Calm.refl s).toStill
  · exact .of_records False.elim

theorem Still.createEntries (f : FrameIdx) (urgent : Bool) (qs : List QueueId) (s : State) :
    Still False s (qs.foldl (fun s q => Machine.createEntry f urgent q s) s) := by
  induction qs generalizing s with
  | nil => exact (Calm.refl s).toStill
  | cons q qs ih => exact .after (ih _) (.createEntry f urgent q s)

/-- Entries taken from the free-entry list carry no deadline after, if they were no claims before (R54). -/
theorem TimerKept.createEntries (f : FrameIdx) (urgent : Bool) (qs : List QueueId) (s : State)
    (free : ∀ e ∈ s.freeEntries, Untimed (s.entry e)) :
    TimerKept s (qs.foldl (fun s q => Machine.createEntry f urgent q s) s) := by
  induction qs generalizing s with
  | nil => exact .of_records
  | cons q qs ih =>
    rw [List.foldl_cons]
    cases hf : s.freeEntries with
    | nil =>
      have none : createEntry f urgent q s = s := by rw [createEntry, hf]
      rw [none]
      exact ih s free
    | cons e others =>
      have created : createEntry f urgent q s = ({ s with freeEntries := others }.setEntry e
          (newEntry f urgent q)).setQueue q ((s.queue q).pushTail (classOf urgent) e) := by
        rw [createEntry, hf]
        rfl
      have kept : TimerKept s ({ s with freeEntries := others }.setEntry e (newEntry f urgent q)) :=
        .after (.setEntry (free e (hf ▸ List.mem_cons_self)) (.inr rfl)) .of_records
      rw [created]
      refine .after (ih _ fun d hd => ?_) (.after .of_records kept)
      have entry : ((({ s with freeEntries := others }.setEntry e (newEntry f urgent q)).setQueue q
          ((s.queue q).pushTail (classOf urgent) e)).entry d) =
            if d = e then newEntry f urgent q else s.entry d := State.setEntry_entry ..
      rw [entry]
      split
      · exact .inr rfl
      · exact free d (hf ▸ List.mem_cons_of_mem _ hd)

theorem Still.postFrame (a : AgentId) (f : FrameIdx) (qs : List QueueId) (s : State) :
    Still False s (postFrame a f qs s) :=
  .after (Calm.unbind ..).toStill
    (.after (Calm.leaveHeld ..).toStill (.after (.createEntries ..) (Calm.of_records).toStill))

theorem TimerKept.postFrame (a : AgentId) (f : FrameIdx) (qs : List QueueId) (s : State)
    (free : ∀ e ∈ s.freeEntries, Untimed (s.entry e)) : TimerKept s (postFrame a f qs s) :=
  .after (Calm.unbind (rest := True) ..).toTimerKept
    (.after (Calm.leaveHeld (rest := True) ..).toTimerKept
      (.after (.createEntries f _ qs _ free) .of_records))

end Sys2Proof.Machine

end

section

-- Taken one after the other, the proofs need one thread (see Tests/Slice0.lean).
set_option Elab.async false

namespace Sys2Proof.Machine

/-! ## Changes -/

/-- The ways in which one command changes the timer and the claims with a deadline. -/
inductive TimerChange (s : State) : State → Prop
  /-- Nothing that the law speaks of. -/
  | kept {t : State} (h : TimerKept s t) : TimerChange s t
  /-- The front entry of a queue becomes a claim (R65, R81). -/
  | claim {u t : State} {a : AgentId} {q : QueueId} {e : EntryId} (before : TimerKept s u)
      (untimed : Untimed (u.entry e)) (after : TimerKept (claimEntry a q e u) t) : TimerChange s t
  /-- A deadline leaves the list (R83, R84). -/
  | leave {t : State} {e : EntryId} (after : TimerKept (leaveDeadlines e s) t) : TimerChange s t
  /-- A tick (R79). -/
  | tick (counts : s.handedOver = []) : TimerChange s (tickNow s)
  /-- RESTART and PORST# leave no deadline (R150, R159). -/
  | emptied {t : State} (deadlines : t.deadlines = []) (handedOver : t.handedOver = [])
      (none : ∀ e, (t.entry e).deadline = none) : TimerChange s t

/-- What one command can do to the controller, the ports and the timer. -/
inductive Change (s : State) : State → Prop
  /-- The ports are the same, or hold nothing any more. -/
  | served {t : State} (law : ControllerLaw s → ControllerLaw t)
      (lines : ∀ p, t.resetLine p = s.resetLine p)
      (held : ∀ p, t.heldAccesses p = s.heldAccesses p ∨ t.heldAccesses p = [])
      (timer : EntryLaw s → TimerChange s t) : Change s t
  /-- A port in reset holds an access of its own (R118). -/
  | held {p : Port} {c : HeldAccess} (line : s.resetLine p = true)
      (own : ∀ i, c = .command i → WellFormed i = true ∧ accessPort i = some p) :
      Change s (s.setHeldAccesses p (s.heldAccesses p ++ [c]))
  /-- A port's reset line is asserted (R118). -/
  | asserted {t : State} {p : Port} (law : ControllerLaw (s.setResetLine p true) → ControllerLaw t)
      (calm : Calm False (s.setResetLine p true) t) : Change s t
  /-- A port's reset line is released, and the accesses that it held are on their way (R118). -/
  | released {p : Port} : Change s ((s.setResetLine p false).setHeldAccesses p [])

theorem ControllerLaw.of_still {s t : State} (law : ControllerLaw s)
    (still : Still (s.controller ≠ .running) s t) : ControllerLaw t := by
  obtain ⟨rest, porst, events⟩ := (controllerLaw_iff s).mp law
  refine (controllerLaw_iff t).mpr ⟨fun other => ?_, fun asserted => ?_, still.events events⟩
  · rw [still.controller] at other
    exact still.noTraffic other (rest other)
  · rw [still.controller]
    exact porst (still.porst ▸ asserted)

/-- A calm command, outside RUNNING too. -/
theorem Change.of_calm {s t : State} (h : Calm (s.controller ≠ .running) s t) : Change s t :=
  .served (fun law => law.of_still h.toStill) h.resetLine (fun p => .inl (h.heldAccesses p))
    fun _ => .kept h.toTimerKept

/-- A command that is taken in RUNNING only. -/
theorem Change.of_traffic {s t : State} (running : ControllerLaw s → s.controller = .running)
    (still : Still False s t) (timer : EntryLaw s → TimerChange s t) : Change s t :=
  .served (fun law => law.of_still (still.running (running law))) still.resetLine
    (fun p => .inl (still.heldAccesses p)) timer

theorem Change.refl (s : State) : Change s s := .of_calm (.refl s)

/-! ## The commands of the ports -/

/-- An access is held, completes in INIT, or runs. -/
theorem takeAccess_change {p : Port} {c : Instr} {inInit : State → State} {run : State → Out}
    {s t : State} (h : takeAccess p (.command c) inInit run s = .next t)
    (init : Calm (s.controller ≠ .running) s (inInit s))
    (runs : PortTakes s p → run s = .next t → Change s t)
    (wellFormed : WellFormed c = true := by rfl) (port : accessPort c = some p := by rfl) :
    Change s t := by
  rcases takeAccess_cases h with ⟨line, e⟩ | ⟨-, -, e⟩ | ⟨takes, e⟩
  · cases e
    exact .held line fun i hi => by cases hi; exact ⟨wellFormed, port⟩
  · cases e; exact .of_calm init
  · exact runs takes e.symm

theorem readAccess_change {p : Port} {c : Instr} {run : State → State} {s t : State}
    (h : readAccess p c run s = .next t) (runs : PortTakes s p → Change s (run s))
    (wellFormed : WellFormed c = true := by rfl) (port : accessPort c = some p := by rfl) :
    Change s t :=
  takeAccess_change h (.returns ..) (fun takes e => by cases e; exact runs takes) wellFormed port

theorem writeAccess_change {p : Port} {c : Instr} {run : State → State} {s t : State}
    (h : writeAccess p c run s = .next t) (runs : PortTakes s p → Change s (run s))
    (wellFormed : WellFormed c = true := by rfl) (port : accessPort c = some p := by rfl) :
    Change s t :=
  takeAccess_change h (.refl s) (fun takes e => by cases e; exact runs takes) wellFormed port

theorem running_of_prefix {s : State} {a : AgentId} (h : commonPrefix s a = none) :
    s.controller = .running := by
  simp only [commonPrefix, firstRefusal_eq_none_iff, List.forall_mem_cons, refuseIf_eq_none_iff] at h
  simpa using h.1

/-! ### Frames -/

theorem execAlloc_change {a : AgentId} {p : PoolId} {s t : State} (h : execAlloc a p s = .next t) :
    Change s t := by
  refine readAccess_change h fun _ => .of_calm ?_
  split
  · exact .after (.returns ..) (.after (.answer ..) (.after (.lowWaterTest ..)
      (.after (.allocFrame ..) .of_records)))
  · exact (Calm.answer ..).trans (.returns ..)

theorem execFree_change {a : AgentId} {w : Word} {s t : State} (h : execFree a w s = .next t) :
    Change s t := by
  refine writeAccess_change h fun _ => .of_calm ?_
  split
  · exact .answer ..
  · rename_i refusal
    simp only [holdRefusal, firstRefusal_eq_none_iff, List.forall_mem_cons] at refusal
    exact .running (.after (.answer ..) (.after (.unbind ..) (.giveBack ..))) (running_of_prefix refusal.1)

/-! ### Posting -/

theorem EntryLaw.free_untimed {s : State} (h : EntryLaw s) : ∀ e ∈ s.freeEntries, Untimed (s.entry e) :=
  fun e he => .inl (by rw [(h.free_place e he).1]; exact nofun)

/-- An accepted post with its answer (R53, R54). -/
theorem postFrame_change {a : AgentId} {f : FrameIdx} {qs : List QueueId} {k : Action} {w : Word}
    {s : State} (running : s.controller = .running) :
    Change s ((postFrame a f qs s).answer a .ok k w) :=
  .of_traffic (fun _ => running) (.after (Calm.answer ..).toStill (.postFrame ..))
    fun law => .kept (.after (Calm.answer (rest := True) ..).toTimerKept (.postFrame _ _ _ _ law.free_untimed))

theorem postWrite_change (a : AgentId) (h : Word) (s : State) : Change s (postWrite a h s) := by
  unfold postWrite
  split
  · exact .of_calm (.answer ..)
  · rename_i refusal
    simp only [postRefusal, holdRefusal, firstRefusal_eq_none_iff, List.forall_mem_cons, withHandle,
      Option.map_eq_none_iff] at refusal
    exact postFrame_change (running_of_prefix refusal.1.1)

theorem execReply_change {a : AgentId} {w : Word} {s t : State} (h : execReply a w s = .next t) :
    Change s t := by
  refine writeAccess_change h fun _ => ?_
  dsimp only
  split
  · exact .of_calm (.answer ..)
  · rename_i refusal
    simp only [replyRefusal, holdRefusal, firstRefusal_eq_none_iff, List.forall_mem_cons, withHandle,
      Option.map_eq_none_iff] at refusal
    exact postFrame_change (running_of_prefix refusal.1.1)

/-! ### Receiving -/

theorem EntryLaw.front_untimed {s : State} (h : EntryLaw s) {q : QueueId} {e : EntryId}
    (front : (s.queue q).front = some e) : Untimed (s.entry e) := by
  refine .inl ?_
  rcases mem_of_front front with hu | hn
  · rw [(h.urgent_place q e hu).1]; exact nofun
  · rw [(h.normal_place q e hn).1]; exact nofun

theorem Still.claimEntry (a : AgentId) (q : QueueId) (e : EntryId) (s : State) :
    Still False s (claimEntry a q e s) := by
  rw [claimEntry_eq]
  exact .of_records False.elim

/-- An accepted receive, after an update `u` that leaves the entries as they are. -/
theorem acceptReceive_change {s u : State} {a : AgentId} {q : QueueId} {e : EntryId} {k : Action}
    (running : s.controller = .running) (before : Calm False s u) (same : SameEntries s u)
    (front : (u.queue q).front = some e) : Change s (acceptReceive a q e k u) := by
  have answered : Calm False (claimEntry a q e u) (acceptReceive a q e k u) :=
    .after (.returns ..) (.answer ..)
  exact .of_traffic (fun _ => running)
    (.after answered.toStill (.after (.claimEntry ..) before.toStill))
    fun law => .claim before.toTimerKept ((law.of_same same).front_untimed front) answered.toTimerKept

theorem refuseReceive_calm {rest : Prop} (a : AgentId) (c : ResultCode) (k : Action) (w : Word)
    (s : State) : Calm rest s (refuseReceive a c k w s) := (Calm.answer ..).trans (.returns ..)

theorem execReceive_change {a : AgentId} {q : QueueId} {s t : State} (h : execReceive a q s = .next t) :
    Change s t := by
  refine readAccess_change h fun _ => ?_
  split
  · rename_i refusal front
    simp only [receiveRefusal, firstRefusal_eq_none_iff, List.forall_mem_cons] at refusal
    exact acceptReceive_change (running_of_prefix refusal.1) (.refl s) .of_records front
  · exact .of_calm (refuseReceive_calm ..)

theorem execReceiveAny_change {a : AgentId} {s t : State} (h : execReceiveAny a s = .next t) :
    Change s t := by
  refine readAccess_change h fun _ => ?_
  split
  · rename_i q refusal _
    simp only [receiveAnyRefusal, firstRefusal_eq_none_iff, List.forall_mem_cons] at refusal
    split
    · rename_i e front
      exact acceptReceive_change (running_of_prefix refusal.1) (.agentFields rfl) (.setAgent rfl) front
    · exact .of_calm (refuseReceive_calm ..)
  · exact .of_calm (refuseReceive_calm ..)

/-! ### The ends of a claim -/

theorem leaveDeadlines_entry (e d : EntryId) (s : State) : (leaveDeadlines e s).entry d =
    if d = e then { s.entry e with deadline := none } else s.entry d := Table.get_set ..

/-- The end of a claim, as far as the timer goes, is the leaving of its deadline (R83). -/
theorem TimerKept.endClaim (a : AgentId) (e : EntryId) (s : State) :
    TimerKept (leaveDeadlines e s) (endClaim a e s) := by
  have same (d : EntryId) :
      ((Machine.endClaim a e s).entry d).place = ((leaveDeadlines e s).entry d).place ∧
        ((Machine.endClaim a e s).entry d).deadline = ((leaveDeadlines e s).entry d).deadline := by
    rw [endClaim_entry, leaveDeadlines_entry]
    split <;> exact ⟨rfl, rfl⟩
  exact
    { deadlines := by rw [endClaim_eq]; rfl
      handedOver := by rw [endClaim_eq]; rfl
      timebase := by rw [endClaim_eq]; rfl
      place := fun d => .inl (same d).1
      deadline := fun d => .inl (same d).2 }

theorem Still.endClaim (a : AgentId) (e : EntryId) (s : State) : Still False s (endClaim a e s) := by
  rw [endClaim_eq]
  exact .of_records False.elim

theorem endClaim_untimed (a : AgentId) (e : EntryId) (s : State) : Untimed ((endClaim a e s).entry e) :=
  .inr (by rw [endClaim_entry, if_pos rfl])

/-- A claim ends, and its entry goes on. -/
theorem Change.of_endClaim {s t : State} {a : AgentId} {e : EntryId}
    (running : ControllerLaw s → s.controller = .running) (goesOn : Calm False (endClaim a e s) t) :
    Change s t :=
  .of_traffic running (goesOn.toStill.after (.endClaim a e s))
    fun _ => .leave (goesOn.toTimerKept.after (.endClaim a e s))

theorem completeClaim_calm (a : AgentId) (e : EntryId) (s : State) :
    Calm False (endClaim a e s) (completeClaim a e s) :=
  .after (.drainCompletion ..) (.after (.unbindWithoutClaim ..) (.after (.dropReference ..)
    (.freeEntry (endClaim_untimed a e s))))

theorem takeClaim_calm (a : AgentId) (e : EntryId) (s : State) :
    Calm False (endClaim a e s) (takeClaim a e s) :=
  .after (.drainCompletion ..) (.after (.joinHeld ..) (.after .of_records
    (.freeEntry (endClaim_untimed a e s))))

/-- A claim ends, the agent's context is updated, and the redelivery path runs (R73, R85). -/
theorem redeliver_calm {s u : State} {a : AgentId} {e : EntryId} (r : ReturnReason)
    (calm : Calm False (endClaim a e s) u) (entries : u.entries = (endClaim a e s).entries) :
    Calm False (endClaim a e s) (redeliver e r u) := by
  have untimed := endClaim_untimed a e s
  rw [State.entry, ← entries] at untimed
  exact calm.trans (.redeliver untimed r)

theorem unbindWithoutClaim_entries (a : AgentId) (f : FrameIdx) (s : State) :
    (unbindWithoutClaim a f s).entries = s.entries := by
  rw [unbindWithoutClaim_eq]; rfl

theorem offerNotice_entries (a : AgentId) (n : Notice) (s : State) :
    (offerNotice a n s).entries = s.entries := by
  rw [offerNotice_eq]; rfl

theorem execComplete_change {a : AgentId} {w : Word} {s t : State} (h : execComplete a w s = .next t) :
    Change s t := by
  refine writeAccess_change h fun _ => ?_
  split
  · rename_i refusal _
    exact .of_endClaim (fun _ => running_of_prefix (prefix_of_claimRefusal refusal))
      (.after (.answer ..) (completeClaim_calm ..))
  · exact .of_calm (.answer ..)

theorem execTake_change {a : AgentId} {w : Word} {s t : State} (h : execTake a w s = .next t) :
    Change s t := by
  refine writeAccess_change h fun _ => ?_
  split
  · rename_i refusal _
    simp only [takeRefusal, firstRefusal_eq_none_iff, List.forall_mem_cons] at refusal
    exact .of_endClaim (fun _ => running_of_prefix (prefix_of_claimRefusal refusal.1))
      (.after (.answer ..) (takeClaim_calm ..))
  · exact .of_calm (.answer ..)

theorem execRelease_change {a : AgentId} {w : Word} {s t : State} (h : execRelease a w s = .next t) :
    Change s t := by
  refine writeAccess_change h fun _ => ?_
  split
  · rename_i refusal _
    exact .of_endClaim (fun _ => running_of_prefix (prefix_of_claimRefusal refusal))
      (.after (.answer ..) (redeliver_calm _ (.unbindWithoutClaim ..) (unbindWithoutClaim_entries ..)))
  · exact .of_calm (.answer ..)

/-- The deadline of an entry that is no claim is withdrawn (R84). -/
theorem leaveDeadlines_change (e : EntryId) (s : State) : Change s (leaveDeadlines e s) := by
  have still : Still (s.controller ≠ .running) s (leaveDeadlines e s) :=
    .of_records fun _ n =>
      { n with
        deadlines := by change s.deadlines.erase e = []; rw [n.deadlines]; rfl
        handedOver := by change s.handedOver.erase e = []; rw [n.handedOver]; rfl }
  exact .served (fun law => law.of_still still) still.resetLine (fun p => .inl (still.heldAccesses p))
    fun _ => .leave .of_records

theorem execClaimExpiry_change {s t : State} (h : execClaimExpiry s = .next t) : Change s t := by
  unfold execClaimExpiry at h
  split at h
  · cases h; exact .refl s
  · rename_i e rest front
    have running (law : ControllerLaw s) : s.controller = .running :=
      law.running fun n => by rw [n.handedOver] at front; cases front
    split at h
    · rename_i a _
      cases h
      have told (n : Notice) : Calm False (endClaim a e s)
          (offerNotice a n (unbindWithoutClaim a (s.entry e).frame (endClaim a e s))) :=
        .after (.offerNotice ..) (.unbindWithoutClaim ..)
      exact .of_endClaim running (redeliver_calm .expired (told _)
        ((offerNotice_entries ..).trans (unbindWithoutClaim_entries ..)))
    · cases h; exact leaveDeadlines_change e s

theorem execRetireClaimStep_change {a : AgentId} {s t : State} (h : execRetireClaimStep a s = .next t) :
    Change s t := by
  unfold execRetireClaimStep at h
  split at h
  · rename_i retiring
    have running (law : ControllerLaw s) : s.controller = .running :=
      law.running fun n => by rw [n.agents] at retiring; cases retiring
    split at h
    · cases h
      exact .of_endClaim running
        (.after (.setAgent False.elim) (redeliver_calm .retired (.refl _) rfl))
    · cases h; exact .refl s
  · cases h; exact .refl s

end Sys2Proof.Machine

end

section

-- Taken one after the other, the proofs need one thread (see Tests/Slice0.lean).
set_option Elab.async false

namespace Sys2Proof.Machine

/-! ### Agents -/

theorem execAttach_change {a : AgentId} {s t : State} (h : execAttach a s = .next t) : Change s t := by
  refine writeAccess_change h fun _ => .of_calm ?_
  split
  · exact .answer ..
  · rename_i refusal
    simp only [attachRefusal, firstRefusal_eq_none_iff, List.forall_mem_cons, refuseIf_eq_none_iff]
      at refusal
    exact .running (.after (.answer ..) (.setAgent False.elim)) (by simpa using refusal.1)

theorem execDetach_change {a : AgentId} {s t : State} (h : execDetach a s = .next t) : Change s t := by
  refine writeAccess_change h fun _ => .of_calm ?_
  split
  · exact .answer ..
  · exact .running (.after (.answer ..) (.beginRetire ..)) (running_of_prefix ‹_›)

theorem execRetire_change {a : AgentId} {s t : State} (h : execRetire a s = .next t) : Change s t := by
  refine writeAccess_change h fun _ => .of_calm ?_
  split
  · rename_i c
    exact .running (.after (.controlAnswer ..) (.beginRetire ..)) c.1
  · exact .controlAnswer ..

theorem execRetireFreeStep_change {a : AgentId} {s t : State} (h : execRetireFreeStep a s = .next t) :
    Change s t := by
  unfold execRetireFreeStep at h
  split at h
  · rename_i c
    have running (law : ControllerLaw s) : s.controller = .running :=
      law.running fun n => by rw [n.agents] at c; cases c.1
    have calm : Calm False s t := by
      split at h
      · cases h
        exact .after (.agentFields rfl) (.giveBack ..)
      · cases h
        exact .after (.offerEvent ..) (.setAgent False.elim)
    exact .of_traffic running calm.toStill fun _ => .kept calm.toTimerKept
  · cases h; exact .refl s

theorem execUnknownAgentCommand_change {a : AgentId} {code : Byte} {s t : State}
    (h : execUnknownAgentCommand a code s = .next t) : Change s t := by
  unfold execUnknownAgentCommand at h
  split at h
  · rename_i unknown
    exact writeAccess_change h (fun _ => .of_calm (.answer ..)) unknown
  · cases h

theorem stagingWrite_calm (a : AgentId) (change : Staging → Staging) {rest : Prop} (s : State) :
    Calm rest s (stagingWrite a change s) := by
  unfold stagingWrite
  dsimp only
  split
  · exact .agentFields rfl
  · exact .refl s

theorem execInterruptEnable_change {a : AgentId} {w : Word} {s t : State}
    (h : execInterruptEnable a w s = .next t) : Change s t := by
  refine writeAccess_change h fun _ => .of_calm ?_
  dsimp only
  split
  · exact .agentFields rfl
  · exact .refl s

theorem execNotice_change {a : AgentId} {s t : State} (h : execNotice a s = .next t) : Change s t := by
  refine readAccess_change h fun _ => .of_calm ?_
  dsimp only
  split
  · split
    · exact .after (.returns ..) (.agentFields rfl)
    · exact .after (.returns ..) (.agentFields rfl)
  · exact .returns ..

/-! ### The aperture -/

theorem execBindWrite_change {a : AgentId} {w : Word} {s t : State} (h : execBindWrite a w s = .next t) :
    Change s t := by
  refine writeAccess_change h fun _ => .of_calm ?_
  dsimp only
  split
  · exact .answer ..
  · exact .after (.answer ..) (.agentFields rfl)

theorem execBindRead_change {a : AgentId} {s t : State} (h : execBindRead a s = .next t) : Change s t := by
  refine readAccess_change h fun _ => .of_calm ?_
  split
  · exact .after (.returns ..) (.answer ..)
  · exact .after (.returns ..) (.answer ..)

theorem execApertureRead_change {a : AgentId} {m : BitVec 9} {lanes : BitVec 4} {s t : State}
    (h : execApertureRead a m lanes s = .next t) : Change s t := by
  refine takeAccess_change h (.returns ..) fun _ h => .of_calm ?_
  dsimp only at h
  split at h
  · cases h; exact .after (.returns ..) (.answer ..)
  · split at h
    · cases h; exact .returns ..
    · cases h

theorem execApertureWrite_change {a : AgentId} {m : BitVec 9} {lanes : BitVec 4} {w : Word} {s t : State}
    (h : execApertureWrite a m lanes w s = .next t) : Change s t := by
  refine takeAccess_change h (.refl s) fun _ h => .of_calm ?_
  dsimp only at h
  split at h
  · cases h; exact .answer ..
  · split at h
    · cases h; exact .of_records
    · cases h

/-! ### The control page -/

/-- A configuration write is the change of its register, or nothing but the result record. -/
theorem configure_calm {rest : Prop} {offset n : Nat} {refusal : Option ControlCode}
    {change : Option State} {s : State} (h : ∀ t ∈ change, Calm rest s t) :
    Calm rest s (configure offset n refusal change s) := by
  unfold configure
  dsimp only
  split
  · exact .controlAnswer ..
  · exact .controlAnswer ..
  · exact .after (.controlAnswer ..) (h _ rfl)

theorem execUnknownControlCommand_change {w : Word} {s t : State}
    (h : execUnknownControlCommand w s = .next t) : Change s t := by
  unfold execUnknownControlCommand at h
  split at h
  · rename_i unknown
    refine writeAccess_change h (fun _ => .of_calm ?_) unknown
    split <;> exact .controlAnswer ..
  · cases h

theorem execSupervisorEvent_change {s t : State} (h : execSupervisorEvent s = .next t) : Change s t := by
  refine readAccess_change h fun _ => .of_calm ?_
  split
  · rename_i e others events
    refine .after (.returns ..) { (Calm.refl s : Calm (s.controller ≠ .running) s s) with
      events := fun b => ?_, noTraffic := fun _ n => n.of_records }
    rw [events, List.length_cons] at b
    exact Nat.le_of_succ_le b
  · exact .after (.returns ..) .of_records

/-- The same, for a register whose value decides the change. -/
theorem configure_map_calm {rest : Prop} {α : Type} {offset n : Nat} {refusal : Option ControlCode}
    {value : Option α} {change : α → State} {s : State} (h : ∀ x, value = some x → Calm rest s (change x)) :
    Calm rest s (configure offset n refusal (value.map change) s) :=
  configure_calm fun t ht => by
    obtain ⟨x, hx, rfl⟩ := Option.map_eq_some_iff.mp ht
    exact h x hx

theorem execPoolDefinition_change {p : PoolId} {w : Word} {s t : State}
    (h : execPoolDefinition p w s = .next t) : Change s t :=
  writeAccess_change h fun _ => .of_calm (configure_map_calm fun _ _ => .of_records)

theorem queueOfWord_state {x y : Queue} {half : Half} {w : Word} (h : queueOfWord x half w = some y) :
    y.state = x.state := by
  cases half
  all_goals
    simp only [queueOfWord] at h
    split at h
    · cases h; rfl
    · cases h

theorem execQueueConfiguration_change {q : QueueId} {half : Half} {w : Word} {s t : State}
    (h : execQueueConfiguration q half w s = .next t) : Change s t :=
  writeAccess_change h fun _ =>
    .of_calm (configure_map_calm fun _ hx => .setQueue fun _ => queueOfWord_state hx)

theorem execAgentConfiguration_change {a : AgentId} {w : Word} {s t : State}
    (h : execAgentConfiguration a w s = .next t) : Change s t :=
  writeAccess_change h fun _ =>
    .of_calm (configure_map_calm fun _ hx => .agentFields (agentOfWord_kept hx).2.2)

theorem execGroupMemberSet_change {g : GroupId} {w : Word} {s t : State}
    (h : execGroupMemberSet g w s = .next t) : Change s t :=
  writeAccess_change h fun _ => .of_calm (configure_calm fun u hu => by cases hu; exact .of_records)

theorem execDeadLetterSelection_change {w : Word} {s t : State}
    (h : execDeadLetterSelection w s = .next t) : Change s t :=
  writeAccess_change h fun _ => .of_calm (configure_map_calm fun _ _ => .of_records)

theorem execTimebasePrescaler_change {w : Word} {s t : State}
    (h : execTimebasePrescaler w s = .next t) : Change s t :=
  writeAccess_change h fun _ => .of_calm (configure_map_calm fun _ _ => .of_records)

theorem execSupervisorInterruptEnable_change {w : Word} {s t : State}
    (h : execSupervisorInterruptEnable w s = .next t) : Change s t :=
  writeAccess_change h fun _ => .of_calm (configure_map_calm fun _ _ => .of_records)

end Sys2Proof.Machine

end

section

-- Taken one after the other, the proofs need one thread (see Tests/Slice0.lean).
set_option Elab.async false

namespace Sys2Proof.Machine

/-! ### The controller -/

/-- Outside INIT PORST# is released, and stays so; the law is kept when a part that is not RUNNING after was not
RUNNING before, and is still without traffic (R149, R150). -/
theorem ControllerLaw.enter {s t : State} (law : ControllerLaw s) (released : s.controller ≠ .init)
    (porst : t.porst = s.porst) (events : s.events.length ≤ 16 → t.events.length ≤ 16)
    (rest : t.controller ≠ .running → s.controller ≠ .running ∧ (NoTraffic s → NoTraffic t)) :
    ControllerLaw t := by
  obtain ⟨quiet, reset, bound⟩ := (controllerLaw_iff s).mp law
  refine (controllerLaw_iff t).mpr ⟨fun other => ?_, fun asserted => ?_, events bound⟩
  · obtain ⟨before, keeps⟩ := rest other
    exact keeps (quiet before)
  · exact absurd (reset (porst ▸ asserted)) released

theorem execFormat_change {s t : State} (h : execFormat s = .next t) : Change s t := by
  refine writeAccess_change h fun takes => ?_
  split
  · exact .of_calm (.controlAnswer ..)
  · exact .of_calm (.controlAnswer ..)
  · rename_i config
    split
    · exact .of_calm (.controlAnswer ..)
    · refine .served (fun law => law.enter takes.2 rfl id fun _ => ⟨?_, fun n => n.of_records⟩)
        (fun p => ?_) (fun p => .inl ?_) fun _ => .kept .of_records
      · rw [config]; exact nofun
      · cases p <;> rfl
      · cases p <;> rfl
  · exact absurd ‹_› takes.2

theorem buildFrame_calm {rest : Prop} (f : FrameIdx) (s : State) : Calm rest s (buildFrame f s) := by
  rcases buildFrame_cases f s with e | ⟨_, _, e⟩ <;> rw [e] <;> exact .of_records

theorem execFormatBuildStep_change {s t : State} (h : execFormatBuildStep s = .next t) : Change s t := by
  unfold execFormatBuildStep at h
  split at h
  · cases h; exact .of_calm (buildFrame_calm ..)
  · cases h; exact .refl s

theorem execFormatCompletion_change {s t : State} (h : execFormatCompletion s = .next t) :
    Change s t := by
  unfold execFormatCompletion at h
  split at h
  · rename_i c
    cases h
    generalize hu : ({ s with activeTotal := _, pools := _, controller := .running } : State) = u
    have offered : Calm True u (offerEvent (.formatDone (frameTotal s)) u) := .offerEvent ..
    have running : (offerEvent (.formatDone (frameTotal s)) u).controller = .running := by
      rw [offered.controller, ← hu]
    refine .served (fun law => law.enter ?_ ?_ ?_ fun other => absurd running other) (fun p => ?_)
      (fun p => .inl ?_) fun _ => .kept (offered.toTimerKept.after ?_)
    · rw [c.1]; exact nofun
    · rw [offered.porst, ← hu]
    · intro b
      exact offered.events (hu ▸ b)
    · rw [offered.resetLine, ← hu]; cases p <;> rfl
    · rw [offered.heldAccesses, ← hu]; cases p <;> rfl
    · rw [← hu]; exact .of_records
  · cases h; exact .refl s

theorem scrubFrame_calm (f : FrameIdx) (s : State) : Calm False s (scrubFrame f s) := by
  unfold scrubFrame
  dsimp only
  rw [reArmTest_joinFreeList]
  exact { (Calm.refl s : Calm False s s) with noTraffic := False.elim }

theorem execScrubCompletion_change {s t : State} (h : execScrubCompletion s = .next t) : Change s t := by
  unfold execScrubCompletion at h
  split at h
  · rename_i running _
    cases h
    exact .of_calm (.running (scrubFrame_calm ..) running)
  · cases h; exact .refl s

/-- RESTART leaves no traffic (R108, R159). -/
theorem restartState_noTraffic (s : State) : NoTraffic (restartState s) where
  agents a := by rw [State.agent, restartState, Table.get_map]; rfl
  queues q := by rw [State.queue, restartState, Table.get_map]; rfl
  deadlines := rfl
  handedOver := rfl
  scrubList := rfl
  activeTotal := rfl

theorem execRestart_change {s t : State} (h : execRestart s = .next t) : Change s t := by
  refine writeAccess_change h fun takes => ?_
  refine .served (fun law => ?_) (fun p => ?_) (fun p => .inl ?_) fun _ => .emptied rfl rfl fun e => ?_
  · have law : ControllerLaw (restartState s) := (controllerLaw_iff _).mpr
      ⟨fun _ => restartState_noTraffic s,
        fun asserted => absurd (((controllerLaw_iff s).mp law).2.1 asserted) takes.2, Nat.zero_le _⟩
    exact law.of_still (Calm.controlAnswer ..).toStill
  · cases p <;> rfl
  · cases p <;> rfl
  · change ((restartState s).entry e).deadline = none
    rw [State.entry, restartState, Table.get_map]
    rfl

/-! ### Queue commands -/

/-- A queue command is its transition, or nothing but the result record. -/
theorem queueCommand_calm {r : Requester} {q : QueueId} {k : Action} {code : Byte} {c : ResultCode}
    {transition : State → Option State} {s : State} (h : ∀ t ∈ transition s, Calm False s t) :
    Calm (s.controller ≠ .running) s (queueCommand r q k code c transition s) := by
  unfold queueCommand
  split
  · split
    · exact .answer ..
    · rename_i refusal
      simp only [queueCommandRefusal, firstRefusal_eq_none_iff, List.forall_mem_cons] at refusal
      split
      · exact .running (.after (.answer ..) (h _ ‹_›)) (running_of_prefix refusal.1)
      · exact .answer ..
  · split
    · rename_i running
      split
      · exact .running (.after (.controlAnswer ..) (h _ ‹_›)) running
      · exact .controlAnswer ..
    · exact .controlAnswer ..

theorem openChange_calm {q : QueueId} {s t : State} (h : t ∈ openChange q s) : Calm False s t := by
  unfold openChange at h
  split at h <;> cases h <;> exact .setQueue False.elim

theorem pauseChange_calm {q : QueueId} {s t : State} (h : t ∈ pauseChange q s) : Calm False s t := by
  unfold pauseChange at h
  split at h <;> cases h; exact .setQueue False.elim

theorem resumeChange_calm {q : QueueId} {s t : State} (h : t ∈ resumeChange q s) : Calm False s t := by
  unfold resumeChange at h
  split at h <;> cases h; exact .setQueue False.elim

theorem drainChange_calm {r : Requester} {q : QueueId} {s t : State} (h : t ∈ drainChange r q s) :
    Calm False s t := by
  have closed : Calm False s (reportClosed (some r) q (s.setQueue q { s.queue q with state := .closed })) :=
    .after (.report ..) (.setQueue False.elim)
  have draining : Calm False s (s.setQueue q { s.queue q with state := .draining, requester := some r }) :=
    .setQueue False.elim
  unfold drainChange at h
  split at h
  case h_1 | h_2 =>
    split at h <;> cases h
    · exact closed
    · exact draining
  all_goals cases h

theorem flushChange_calm {r : Requester} {q : QueueId} {s t : State} (h : t ∈ flushChange r q s) :
    Calm False s t := by
  unfold flushChange at h
  split at h <;> cases h <;> exact .setQueue False.elim

theorem disableChange_calm {q : QueueId} {s t : State} (h : t ∈ disableChange q s) : Calm False s t := by
  unfold disableChange at h
  split at h
  · split at h <;> cases h; exact .setQueue False.elim
  all_goals cases h

theorem execClearDiscard_change {q : QueueId} {s t : State} (h : execClearDiscard q s = .next t) :
    Change s t :=
  writeAccess_change h fun _ => .of_calm (.after (.controlAnswer ..) (.setQueue fun _ => rfl))

theorem flushDrop_still (q : QueueId) (e : EntryId) (s : State) : Still False s (flushDrop q e s) :=
  .after (Calm.dropReference ..).toStill (.of_records False.elim)

theorem flushDrop_timer {q : QueueId} {e : EntryId} {s : State} (untimed : Untimed (s.entry e)) :
    TimerKept s (flushDrop q e s) := by
  unfold flushDrop
  dsimp only
  generalize hu : s.setQueue q _ = u
  have popped : TimerKept s u := hu ▸ .of_records
  have freed : TimerKept u (freeEntry e u) := (Calm.freeEntry (rest := False) (hu ▸ untimed)).toTimerKept
  exact .after (Calm.dropReference ..).toTimerKept (popped.trans freed)

theorem execFlushStep_change {q : QueueId} {s t : State} (h : execFlushStep q s = .next t) :
    Change s t := by
  unfold execFlushStep at h
  split at h
  · rename_i flushing
    have running (law : ControllerLaw s) : s.controller = .running :=
      law.running fun n => by rw [n.queues] at flushing; cases flushing
    split at h
    · rename_i e front
      cases h
      exact .of_traffic running (flushDrop_still q e s)
        fun law => .kept (flushDrop_timer (law.front_untimed front))
    · cases h
      have ended : Calm False s (flushEnd q s) := .after (.report ..) (.setQueue False.elim)
      exact .of_traffic running ended.toStill fun _ => .kept ended.toTimerKept
  · cases h; exact .refl s

end Sys2Proof.Machine

end

section

-- Taken one after the other, the proofs need one thread (see Tests/Slice0.lean).
set_option Elab.async false

namespace Sys2Proof.Machine

/-! ### Pins and the timer -/

theorem execIgnoredWrite_change {p : Port} {page : BitVec 4} {offset : BitVec 10} {w : Word} {s t : State}
    (h : execIgnoredWrite p page offset w s = .next t) : Change s t := by
  unfold execIgnoredWrite at h
  split at h
  · rename_i ignored
    exact writeAccess_change h (fun _ => .refl s) ignored
  · cases h

/-- PORST# leaves no traffic (R149, R150). -/
theorem execPorstAssert_change {s t : State} (h : execPorstAssert s = .next t) : Change s t := by
  cases h
  refine .served (fun _ => ?_) (fun p => ?_) (fun p => .inr ?_) fun _ => .emptied rfl rfl fun e => ?_
  · have reset : NoTraffic State.reset :=
      ⟨fun _ => by rw [State.agent, State.reset, Table.get_fill]; rfl,
        fun _ => by rw [State.queue, State.reset, Table.get_fill]; rfl, rfl, rfl, rfl, rfl⟩
    exact (controllerLaw_iff _).mpr ⟨fun _ => reset.of_records, fun _ => rfl, Nat.zero_le _⟩
  · cases p <;> rfl
  · cases p <;> rfl
  · change (State.reset.entry e).deadline = none
    rw [State.entry, State.reset, Table.get_fill]
    rfl

theorem execPorstRelease_change {s t : State} (h : execPorstRelease s = .next t) : Change s t := by
  cases h
  refine .served (fun law => ?_) (fun p => ?_) (fun p => .inl ?_) fun _ => .kept .of_records
  · obtain ⟨quiet, -, bound⟩ := (controllerLaw_iff s).mp law
    exact (controllerLaw_iff _).mpr ⟨fun other => (quiet other).of_records, nofun, bound⟩
  · cases p <;> rfl
  · cases p <;> rfl

theorem execInitialisationEnd_change {s t : State} (h : execInitialisationEnd s = .next t) :
    Change s t := by
  unfold execInitialisationEnd at h
  split at h
  · rename_i c
    obtain ⟨init, released⟩ := c
    cases h
    refine .served (fun law => ?_) (fun p => ?_) (fun p => .inl ?_) fun _ => .kept .of_records
    · obtain ⟨quiet, -, bound⟩ := (controllerLaw_iff s).mp law
      refine (controllerLaw_iff _).mpr ⟨fun _ => (quiet ?_).of_records, fun asserted => ?_, bound⟩
      · rw [init]; exact nofun
      · exact absurd (released.symm.trans asserted) nofun
    · cases p <;> rfl
    · cases p <;> rfl
  · cases h; exact .refl s

/-- An agent retires when its port is reset: only one that is ONLINE does (R118). -/
theorem retireForPort_calm (s : State) (a : AgentId) : Calm False s (retireForPort s a) := by
  unfold retireForPort
  split
  · exact .beginRetire ..
  · exact .refl s

theorem retireForPort_law {s : State} (a : AgentId) (law : ControllerLaw s) :
    ControllerLaw (retireForPort s a) := by
  unfold retireForPort
  split
  · rename_i online
    have running := law.running fun n => by rw [n.agents] at online; cases online
    have still : Still False s (beginRetire a .portReset s) := (Calm.beginRetire ..).toStill
    exact law.of_still (still.running running)
  · exact law

theorem execPortResetAssert_change {p : Port} {s t : State} (h : execPortResetAssert p s = .next t) :
    Change s t := by
  have retires (l : List AgentId) : ∀ u, Calm False u (l.foldl retireForPort u) ∧
      (ControllerLaw u → ControllerLaw (l.foldl retireForPort u)) := by
    induction l with
    | nil => exact fun u => ⟨.refl u, id⟩
    | cons a l ih =>
      intro u
      obtain ⟨calm, keeps⟩ := ih (retireForPort u a)
      exact ⟨(retireForPort_calm u a).trans calm, fun law => keeps (retireForPort_law a law)⟩
  unfold execPortResetAssert at h
  split at h
  · cases h; exact .refl s
  · cases h
    obtain ⟨calm, keeps⟩ := retires (portAgents p) (s.setResetLine p true)
    exact .asserted keeps calm

/-- A tick hands nothing over where there is no traffic (R84). -/
theorem tickNow_change {s : State} (counts : s.handedOver = []) : Change s (tickNow s) := by
  have still : Still (s.controller ≠ .running) s (tickNow s) :=
    .of_records fun _ n =>
      { n with handedOver := by change s.deadlines.takeWhile _ = []; rw [n.deadlines]; rfl }
  exact .served (fun law => law.of_still still) still.resetLine (fun p => .inl (still.heldAccesses p))
    fun _ => .tick counts

theorem handedOver_of_counts {s : State} (h : dividerCounts s = true) : s.handedOver = [] :=
  ((dividerCounts_eq_true_iff s).mp h).2

theorem clockPeriod_change (s : State) : Change s (clockPeriod s) := by
  unfold clockPeriod
  split
  · split
    · exact tickNow_change (handedOver_of_counts ‹_›)
    · exact .of_calm .of_records
  · exact .refl s

/-- Every command but the release of a port's reset line, which takes other commands, is a change. -/
theorem exec_change_of_not_release {c : Instr} (hc : ∀ p, c ≠ .portResetRelease p) {s t : State}
    (h : exec c s = .next t) : Change s t := by
  cases c with
  | alloc a p => exact execAlloc_change h
  | receive a q => exact execReceive_change h
  | receiveAny a => exact execReceiveAny_change h
  | post a w => exact writeAccess_change h fun _ => postWrite_change a w s
  | postToGroup a w => exact writeAccess_change h fun _ => postWrite_change a w s
  | reply a w => exact execReply_change h
  | free a w => exact execFree_change h
  | complete a w => exact execComplete_change h
  | take a w => exact execTake_change h
  | release a w => exact execRelease_change h
  | bindWrite a w => exact execBindWrite_change h
  | bindRead a => exact execBindRead_change h
  | attach a => exact execAttach_change h
  | detach a => exact execDetach_change h
  | openQueue r q =>
    exact writeAccess_change h fun _ => .of_calm (queueCommand_calm fun _ => openChange_calm)
  | pause r q =>
    exact writeAccess_change h fun _ => .of_calm (queueCommand_calm fun _ => pauseChange_calm)
  | resume r q =>
    exact writeAccess_change h fun _ => .of_calm (queueCommand_calm fun _ => resumeChange_calm)
  | drain r q =>
    exact writeAccess_change h fun _ => .of_calm (queueCommand_calm fun _ => drainChange_calm)
  | flush r q =>
    exact writeAccess_change h fun _ => .of_calm (queueCommand_calm fun _ => flushChange_calm)
  | unknownAgentCommand a code => exact execUnknownAgentCommand_change h
  | notice a => exact execNotice_change h
  | stagingDestination a w => exact writeAccess_change h fun _ => .of_calm (stagingWrite_calm ..)
  | stagingAttributes a w => exact writeAccess_change h fun _ => .of_calm (stagingWrite_calm ..)
  | stagingLength a w => exact writeAccess_change h fun _ => .of_calm (stagingWrite_calm ..)
  | interruptEnable a w => exact execInterruptEnable_change h
  | apertureRead a m lanes => exact execApertureRead_change h
  | apertureWrite a m lanes w => exact execApertureWrite_change h
  | format => exact execFormat_change h
  | restart => exact execRestart_change h
  | disable q =>
    exact writeAccess_change h fun _ => .of_calm (queueCommand_calm fun _ => disableChange_calm)
  | retire a => exact execRetire_change h
  | clearDiscard q => exact execClearDiscard_change h
  | unknownControlCommand w => exact execUnknownControlCommand_change h
  | supervisorEvent => exact execSupervisorEvent_change h
  | poolDefinition p w => exact execPoolDefinition_change h
  | queueConfiguration q half w => exact execQueueConfiguration_change h
  | agentConfiguration a w => exact execAgentConfiguration_change h
  | groupMemberSet g w => exact execGroupMemberSet_change h
  | deadLetterSelection w => exact execDeadLetterSelection_change h
  | timebasePrescaler w => exact execTimebasePrescaler_change h
  | supervisorInterruptEnable w => exact execSupervisorInterruptEnable_change h
  | ignoredWrite p page offset w => exact execIgnoredWrite_change h
  | porstAssert => exact execPorstAssert_change h
  | porstRelease => exact execPorstRelease_change h
  | initialisationEnd => exact execInitialisationEnd_change h
  | portResetAssert p => exact execPortResetAssert_change h
  | portResetRelease p => exact absurd rfl (hc p)
  | tick =>
    cases h
    split
    · exact tickNow_change (handedOver_of_counts ‹_›)
    · exact .refl s
  | claimExpiry => exact execClaimExpiry_change h
  | formatBuildStep => exact execFormatBuildStep_change h
  | formatCompletion => exact execFormatCompletion_change h
  | scrubCompletion => exact execScrubCompletion_change h
  | flushStep q => exact execFlushStep_change h
  | retireClaimStep a => exact execRetireClaimStep_change h
  | retireFreeStep a => exact execRetireFreeStep_change h

/-! ### Held accesses -/

theorem plainRead_change (p : Port) (x : Place) (s : State) : Change s (plainRead p x s) := by
  unfold plainRead
  split
  · rename_i line
    exact .held line nofun
  · exact .of_calm (.returns ..)

/-- What is no access is not held, and not taken (R118). -/
theorem takeCommand_of_not_access {c : Instr} (h : accessPort c = none) (s : State) :
    takeCommand c s = .next s := by
  cases c <;> cases h <;> rfl

theorem takeHeld_change {p : Port} {c : HeldAccess} {s t : State} (h : takeHeld p c s = .next t) :
    Change s t := by
  cases c with
  | read x => cases h; exact plainRead_change ..
  | command c =>
    by_cases access : (accessPort c).isSome = true
    · rw [takeHeld, takeCommand_eq_exec access] at h
      exact exec_change_of_not_release (fun p hp => by simp [hp, accessPort] at access) h
    · rw [takeHeld, takeCommand_of_not_access (by simpa using access)] at h
      cases h; exact .refl s

end Sys2Proof.Machine

end

section

-- Taken one after the other, the proofs need one thread (see Tests/Slice0.lean).
set_option Elab.async false

namespace Sys2Proof.Machine

/-! ## What every change keeps -/

section Keeps

variable {P : State → Prop} (keeps : ∀ s t, Change s t → Moves s t → P s → P t)
include keeps

theorem takeHeldAll_keeps {p : Port} : ∀ {l : List HeldAccess} {s t : State},
    takeHeldAll p l s = .next t → P s → P t
  | [], s, t, h, hs => by cases h; exact hs
  | c :: l, s, t, h, hs => by
    simp only [takeHeldAll] at h
    split at h
    · exact takeHeldAll_keeps h (keeps _ _ (takeHeld_change ‹_›) (takeHeld_moves ‹_›) hs)
    · cases h
    · cases h

/-- What every change keeps that is a chain of moves, every command keeps. -/
theorem exec_keeps {c : Instr} {s t : State} (h : exec c s = .next t) (hs : P s) : P t := by
  by_cases hc : ∃ p, c = .portResetRelease p
  · obtain ⟨p, rfl⟩ := hc
    have released := keeps s _ (.released (p := p)) ((Quiet.setResetLine ..).trans (.setHeldAccesses ..)).moves hs
    exact takeHeldAll_keeps keeps h released
  · exact keeps s t (exec_change_of_not_release (fun p hp => hc ⟨p, hp⟩) h) (exec_moves h) hs

/-- And so does every step. -/
theorem step_keeps {s t : State} (h : step s = .next t) (hs : P s) : P t := by
  unfold step at h
  split at h
  · rename_i c rest _
    exact exec_keeps keeps h (keeps s { s with pending := rest } (.of_calm .of_records) (Quiet.of_records).moves hs)
  · cases h
    exact keeps s _ (clockPeriod_change s) (Quiet.clockPeriod s).moves hs

end Keeps

/-! ## The laws of the controller and of the ports -/

theorem Change.keeps_controllerLaw {s t : State} (h : Change s t) (law : ControllerLaw s) :
    ControllerLaw t := by
  cases h with
  | served keeps => exact keeps law
  | @held p c => cases p <;> exact law
  | @asserted _ p keeps => exact keeps (by cases p <;> exact law)
  | @released p => cases p <;> exact law

theorem heldAccesses_setHeldAccesses (s : State) (p i : Port) (l : List HeldAccess) :
    (s.setHeldAccesses p l).heldAccesses i = if i = p then l else s.heldAccesses i := by
  cases p <;> cases i <;> rfl

theorem resetLine_setResetLine (s : State) (p i : Port) (b : Bool) :
    (s.setResetLine p b).resetLine i = if i = p then b else s.resetLine i := by
  cases p <;> cases i <;> rfl

/-- A port may hold the same accesses, or none, when its line has not been released. -/
theorem HeldLaw.of_kept {s t : State} (law : HeldLaw s)
    (lines : ∀ p, t.resetLine p = false → s.resetLine p = false)
    (held : ∀ p, t.heldAccesses p = s.heldAccesses p ∨ t.heldAccesses p = []) : HeldLaw t := by
  intro p
  obtain ⟨empty, own⟩ := law p
  rcases held p with same | none
  · rw [same]
    exact ⟨fun line => empty (lines p line), own⟩
  · rw [none]
    exact ⟨fun _ => rfl, nofun⟩

theorem Change.keeps_heldLaw {s t : State} (h : Change s t) (law : HeldLaw s) : HeldLaw t := by
  cases h with
  | served _ lines held => exact law.of_kept (fun p line => lines p ▸ line) held
  | @held p c line own =>
    intro i
    obtain ⟨empty, before⟩ := law i
    rw [heldAccesses_setHeldAccesses, State.resetLine_setHeldAccesses]
    split
    · rename_i same
      subst same
      refine ⟨fun released => absurd (line.symm.trans released) nofun, fun d hd => ?_⟩
      rcases List.mem_append.mp hd with hd | hd
      · exact before d hd
      · exact own d (List.mem_singleton.mp hd).symm
    · exact ⟨empty, before⟩
  | @asserted _ p _ calm =>
    refine law.of_kept (fun i line => ?_) fun i => .inl ?_
    · rw [calm.resetLine, resetLine_setResetLine] at line
      split at line
      · cases line
      · exact line
    · rw [calm.heldAccesses, State.heldAccesses_setResetLine]
  | @released p =>
    intro i
    obtain ⟨empty, own⟩ := law i
    rw [heldAccesses_setHeldAccesses, State.resetLine_setHeldAccesses, State.heldAccesses_setResetLine,
      resetLine_setResetLine]
    split
    · exact ⟨fun _ => rfl, nofun⟩
    · exact ⟨empty, own⟩

/-- Settles O51: every change of a step keeps both laws. -/
theorem everyStepKeepsControllerAndPortLaws : Obligations.EveryStepKeepsControllerAndPortLaws :=
  fun _ _ controller held h =>
    step_keeps (P := fun s => ControllerLaw s ∧ HeldLaw s)
      (fun _ _ change _ laws => ⟨change.keeps_controllerLaw laws.1, change.keeps_heldLaw laws.2⟩) h
      ⟨controller, held⟩

end Sys2Proof.Machine

end

/-!
The law of the deadlines: the list split into the expiries handed over and the rest (`DeadlineLaw.split`), kept when a
deadline leaves it (R83, R84), when a claim joins it (R82), and at a tick (R79, R84).
-/

section

-- Taken one after the other, the proofs need one thread (see Tests/Slice0.lean).
set_option Elab.async false

namespace Sys2Proof.Machine

/-! ## The law of the deadlines -/

/-- An entry that is no claim with a deadline carries none. -/
theorem DeadlineLaw.deadline_none {s : State} (law : DeadlineLaw s) {e : EntryId}
    (untimed : Untimed (s.entry e)) : (s.entry e).deadline = none := by
  rcases untimed with place | none
  · by_contra some
    exact place (law.claimed e ((law.carried e).mpr (Option.isSome_iff_ne_none.mpr some)))
  · exact none

/-- The distance of an entry rests on its own deadline and the timebase count (R82). -/
theorem deadlineDistance_eq_of_deadline {s t : State} {e : EntryId} (timebase : t.timebase = s.timebase)
    (deadline : (t.entry e).deadline = (s.entry e).deadline) : deadlineDistance t e = deadlineDistance s e := by
  unfold deadlineDistance
  rw [deadline, timebase]

theorem DeadlineLaw.of_kept {s t : State} (law : DeadlineLaw s) (h : TimerKept s t) : DeadlineLaw t := by
  have deadline (e : EntryId) : (t.entry e).deadline = (s.entry e).deadline :=
    (h.deadline e).elim id fun ⟨untimed, gone⟩ => gone.trans (law.deadline_none untimed).symm
  have distance (e : EntryId) : deadlineDistance t e = deadlineDistance s e :=
    deadlineDistance_eq_of_deadline h.timebase (deadline e)
  exact
    { once := h.deadlines ▸ law.once
      carried := fun e => by rw [h.deadlines, deadline]; exact law.carried e
      claimed := fun e he => by
        rw [h.deadlines] at he
        rcases h.place e with place | untimed
        · rw [place]; exact law.claimed e he
        · have some := (law.carried e).mp he
          rw [law.deadline_none untimed] at some
          cases some
      front := by rw [h.deadlines, h.handedOver]; exact law.front
      due := fun e he => by
        rw [deadline, h.timebase]
        exact law.due e (h.handedOver ▸ he)
      ordered := by
        simp only [h.deadlines, h.handedOver, distance]
        exact law.ordered }

/-! ### A deadline leaves the list -/

/-- The entries that are not handed over stand behind those that are. -/
theorem DeadlineLaw.split {s : State} (law : DeadlineLaw s) :
    ∃ l, s.deadlines = s.handedOver ++ l ∧
      l.Pairwise fun x y => deadlineDistance s x ≤ deadlineDistance s y := by
  obtain ⟨l, split⟩ := law.front
  refine ⟨l, split.symm, ?_⟩
  have ordered := law.ordered
  rwa [← split, List.drop_left] at ordered

/-- The converse: the law of a list in two parts. -/
theorem DeadlineLaw.of_split {s : State} {l : List EntryId} (split : s.deadlines = s.handedOver ++ l)
    (once : s.deadlines.Nodup) (carried : ∀ e, e ∈ s.deadlines ↔ (s.entry e).deadline.isSome = true)
    (claimed : ∀ e ∈ s.deadlines, (s.entry e).place = .claimed)
    (due : ∀ e ∈ s.handedOver, (s.entry e).deadline = some s.timebase)
    (ordered : l.Pairwise fun x y => deadlineDistance s x ≤ deadlineDistance s y) : DeadlineLaw s where
  once := once
  carried := carried
  claimed := claimed
  front := ⟨l, split.symm⟩
  due := due
  ordered := by rw [split, List.drop_left]; exact ordered

theorem leaveDeadlines_entry_of_ne {e d : EntryId} (s : State) (h : d ≠ e) :
    (leaveDeadlines e s).entry d = s.entry d := by rw [leaveDeadlines_entry, if_neg h]

/-- A list without repetitions, one element removed from both its parts. -/
theorem erase_append_of_nodup {l r : List EntryId} (once : (l ++ r).Nodup) (e : EntryId) :
    (l ++ r).erase e = l.erase e ++ r.erase e := by
  by_cases mem : e ∈ l
  · have absent : e ∉ r := fun h => (List.disjoint_of_nodup_append once) mem h
    rw [List.erase_append_left _ mem, List.erase_of_not_mem absent]
  · rw [List.erase_append_right _ mem, List.erase_of_not_mem mem]

theorem DeadlineLaw.leaveDeadlines {s : State} (law : DeadlineLaw s) (e : EntryId) :
    DeadlineLaw (leaveDeadlines e s) := by
  obtain ⟨l, split, ordered⟩ := law.split
  have rest (d : EntryId) : d ∈ s.deadlines.erase e ↔ d ≠ e ∧ d ∈ s.deadlines := law.once.mem_erase_iff
  refine .of_split (l := l.erase e) ?_ (law.once.erase e) (fun d => ?_) (fun d hd => ?_) (fun d hd => ?_) ?_
  · change s.deadlines.erase e = s.handedOver.erase e ++ l.erase e
    rw [split, erase_append_of_nodup (split ▸ law.once)]
  · change d ∈ s.deadlines.erase e ↔ _
    rw [rest, leaveDeadlines_entry]
    split
    · rename_i same; simp [same]
    · rename_i other; simp [other, law.carried d]
  · obtain ⟨other, mem⟩ := (rest d).mp hd
    rw [leaveDeadlines_entry_of_ne s other]
    exact law.claimed d mem
  · have handed : (s.handedOver).Nodup := law.once.sublist law.front.sublist
    obtain ⟨other, mem⟩ := handed.mem_erase_iff.mp hd
    rw [leaveDeadlines_entry_of_ne s other]
    exact law.due d mem
  · have once : l.Nodup := (List.nodup_append.mp (split ▸ law.once)).2.1
    have distance {d : EntryId} (hd : d ∈ l.erase e) :
        deadlineDistance (Machine.leaveDeadlines e s) d = deadlineDistance s d :=
      deadlineDistance_eq_of_deadline rfl
        (by rw [leaveDeadlines_entry_of_ne s (once.mem_erase_iff.mp hd).1])
    refine (ordered.sublist List.erase_sublist).imp_of_mem fun hx hy le => ?_
    rwa [distance hx, distance hy]

/-! ### A claim with a deadline joins the list -/

/-- An element put into an ordered list behind what does not exceed it and before what it does not exceed. -/
theorem pairwise_insert {f : EntryId → Nat} {x y : List EntryId} {e : EntryId}
    (ordered : (x ++ y).Pairwise fun c d => f c ≤ f d) (earlier : ∀ d ∈ x, f d ≤ f e)
    (later : ∀ d ∈ y.head?, f e ≤ f d) : (x ++ e :: y).Pairwise fun c d => f c ≤ f d := by
  obtain ⟨left, right, across⟩ := List.pairwise_append.mp ordered
  have after (d : EntryId) (hd : d ∈ y) : f e ≤ f d := by
    cases y with
    | nil => cases hd
    | cons c y =>
      have first := later c rfl
      rcases List.mem_cons.mp hd with rfl | hd
      · exact first
      · exact first.trans (List.rel_of_pairwise_cons right hd)
  refine List.pairwise_append.mpr ⟨left, List.pairwise_cons.mpr ⟨after, right⟩, fun c hc d hd => ?_⟩
  rcases List.mem_cons.mp hd with rfl | hd
  · exact earlier c hc
  · exact across c hc d hd

section Claim

variable {s : State} {a : AgentId} {q : QueueId} {e : EntryId}

theorem claimEntry_entry (d : EntryId) : (claimEntry a q e s).entry d =
    if d = e then claimRecord s a q e else s.entry d := by
  rw [claimEntry_eq]; exact Table.get_set ..

theorem claimEntry_timer : (claimEntry a q e s).deadlines = claimDeadlines s a q e ∧
    (claimEntry a q e s).handedOver = s.handedOver ∧ (claimEntry a q e s).timebase = s.timebase := by
  rw [claimEntry_eq]; exact ⟨rfl, rfl, rfl⟩

/-- A claim of a queue without claim timeout carries no deadline (R81). -/
theorem TimerKept.claimEntry (untimed : Untimed (s.entry e)) (zero : (s.queue q).timeout = 0) :
    TimerKept s (claimEntry a q e s) := by
  obtain ⟨deadlines, handedOver, timebase⟩ := claimEntry_timer (s := s) (a := a) (q := q) (e := e)
  have none : (claimRecord s a q e).deadline = none := if_pos zero
  refine ⟨deadlines.trans (claimDeadlines_of_timeout_zero zero), handedOver, timebase, fun d => ?_, fun d => ?_⟩
  all_goals
    rw [claimEntry_entry]
    by_cases same : d = e
  · exact .inr (same ▸ untimed)
  · exact .inl (by rw [if_neg same])
  · rw [if_pos same]
    exact .inr ⟨same ▸ untimed, none⟩
  · exact .inl (by rw [if_neg same])

/-- The place of a new deadline is behind the expiries handed over (R82). -/
theorem DeadlineLaw.insert (law : DeadlineLaw s) (untimed : Untimed (s.entry e))
    (nonzero : (s.queue q).timeout ≠ 0) :
    ∃ x y, s.deadlines = s.handedOver ++ (x ++ y) ∧
      (claimEntry a q e s).deadlines = s.handedOver ++ (x ++ e :: y) ∧
      (x ++ e :: y).Pairwise fun c d =>
        deadlineDistance (claimEntry a q e s) c ≤ deadlineDistance (claimEntry a q e s) d := by
  obtain ⟨l, split, ordered⟩ := law.split
  obtain ⟨x, y, before, after, earlier, later⟩ :=
    insertDeadline_spec (entryClaimed s a q e) e s.deadlines
  obtain ⟨deadlines, -, timebase⟩ := claimEntry_timer (s := s) (a := a) (q := q) (e := e)
  obtain ⟨z, rfl, rfl⟩ : ∃ z, x = s.handedOver ++ z ∧ l = z ++ y := by
    rcases List.append_eq_append_iff.mp (before.symm.trans split) with ⟨w, handed, rest⟩ | ⟨z, left, rest⟩
    · cases w with
      | nil => exact ⟨[], by rw [handed]; simp, by rw [rest]; rfl⟩
      | cons c w =>
        have first : c ∈ y.head? := by rw [rest]; rfl
        have mem : c ∈ s.handedOver := by rw [handed]; simp
        exact absurd mem (later c first).1
    · exact ⟨z, left, rest⟩
  have claimed (d : EntryId) : deadlineDistance (claimEntry a q e s) d =
      deadlineDistance (entryClaimed s a q e) d :=
    deadlineDistance_congr (s := entryClaimed s a q e) (by rw [claimEntry_eq]; rfl) timebase d
  have absent : e ∉ z ++ y := fun mem => by
    have carried := (law.carried e).mp (split ▸ List.mem_append_right _ mem)
    rw [law.deadline_none untimed] at carried
    cases carried
  have kept {d : EntryId} (hd : d ∈ z ++ y) : deadlineDistance (claimEntry a q e s) d = deadlineDistance s d :=
    deadlineDistance_eq_of_deadline timebase
      (by rw [claimEntry_entry, if_neg fun same : d = e => absent (same ▸ hd)])
  refine ⟨z, y, split, ?_, pairwise_insert ?_ (fun d hd => ?_) fun d hd => ?_⟩
  · rw [deadlines, claimDeadlines_of_timeout nonzero, after, List.append_assoc]
  · exact ordered.imp_of_mem fun hx hy le => by rwa [kept hx, kept hy]
  · rw [claimed, claimed]
    refine (earlier d (List.mem_append_right _ hd)).resolve_left fun handed => ?_
    have disjoint := List.disjoint_of_nodup_append (split ▸ law.once)
    exact disjoint handed (List.mem_append_left _ hd)
  · rw [claimed, claimed]
    exact (later d hd).2.le

theorem DeadlineLaw.claimEntry (law : DeadlineLaw s) (untimed : Untimed (s.entry e)) :
    DeadlineLaw (claimEntry a q e s) := by
  by_cases zero : (s.queue q).timeout = 0
  · exact law.of_kept (.claimEntry untimed zero)
  obtain ⟨x, y, before, after, ordered⟩ := law.insert (a := a) untimed zero
  obtain ⟨-, handedOver, timebase⟩ := claimEntry_timer (s := s) (a := a) (q := q) (e := e)
  have some : (claimRecord s a q e).deadline.isSome = true := by
    rw [claimRecord, deadlineAt, if_neg zero]; rfl
  have absent : e ∉ s.deadlines := fun mem => by
    have carried := (law.carried e).mp mem
    rw [law.deadline_none untimed] at carried
    cases carried
  have perm : (Machine.claimEntry a q e s).deadlines.Perm (e :: s.deadlines) := by
    rw [before, after, ← List.append_assoc, ← List.append_assoc]
    exact List.perm_middle
  have other {d : EntryId} (hd : d ∈ s.deadlines) : (Machine.claimEntry a q e s).entry d = s.entry d := by
    rw [claimEntry_entry, if_neg fun same : d = e => absent (same ▸ hd)]
  refine .of_split (after.trans (congrArg (· ++ _) handedOver.symm)) ?_ (fun d => ?_) (fun d hd => ?_)
    (fun d hd => ?_) ordered
  · exact perm.nodup_iff.mpr (List.nodup_cons.mpr ⟨absent, law.once⟩)
  · rw [perm.mem_iff, List.mem_cons, claimEntry_entry]
    split
    · rename_i same; simp [same, some]
    · rename_i ne; simp [ne, law.carried d]
  · rcases List.mem_cons.mp (perm.mem_iff.mp hd) with rfl | hd
    · rw [claimEntry_entry, if_pos rfl]; rfl
    · rw [other hd]; exact law.claimed d hd
  · rw [handedOver] at hd
    rw [other (law.front.subset hd), timebase]
    exact law.due d hd

end Claim

/-! ### A tick -/

/-- The distance of a deadline is at least 1, and 1 when the deadline falls due at the next tick (R82). -/
theorem deadlineDistance_spec {s : State} {e : EntryId} {d : BitVec 16} (some : (s.entry e).deadline = some d) :
    1 ≤ deadlineDistance s e ∧ (deadlineDistance s e = 1 ↔ d = s.timebase + 1) := by
  unfold deadlineDistance
  rw [some]
  dsimp only
  split
  · rename_i same
    subst same
    exact ⟨by omega, by bv_omega⟩
  · exact ⟨by bv_omega, by bv_omega⟩

/-- A deadline that does not fall due comes nearer by 1 (R82). -/
theorem deadlineDistance_tickNow {s : State} {e : EntryId} {d : BitVec 16}
    (some : (s.entry e).deadline = some d) (later : d ≠ s.timebase + 1) :
    deadlineDistance s e = deadlineDistance (tickNow s) e + 1 := by
  have entry : ((tickNow s).entry e).deadline = Option.some d := some
  have timebase : (tickNow s).timebase = s.timebase + 1 := rfl
  unfold deadlineDistance
  rw [some, entry, timebase]
  dsimp only
  rw [if_neg later]
  split
  · rename_i same
    subst same
    bv_omega
  · bv_omega

/-- In the ordered list no entry stands behind the first that is not due at the next tick and is due at it (R84). -/
theorem DeadlineLaw.not_due_of_dropWhile {s : State} (law : DeadlineLaw s)
    (ordered : (s.deadlines.dropWhile (dueNext s)).Pairwise
      fun x y => deadlineDistance s x ≤ deadlineDistance s y) {e : EntryId}
    (he : e ∈ s.deadlines.dropWhile (dueNext s)) : (s.entry e).deadline ≠ some (s.timebase + 1) := by
  intro now
  have first := List.head?_dropWhile_not (dueNext s) s.deadlines
  have listed := (List.dropWhile_sublist (dueNext s) (l := s.deadlines)).subset
  generalize s.deadlines.dropWhile (dueNext s) = l at he ordered first listed
  cases l with
  | nil => cases he
  | cons c l =>
    obtain ⟨d, some⟩ := Option.isSome_iff_exists.mp ((law.carried c).mp (listed List.mem_cons_self))
    have notDue : d ≠ s.timebase + 1 := by simpa [dueNext, some] using first
    obtain ⟨least, one⟩ := deadlineDistance_spec some
    have last := (deadlineDistance_spec now).2.mpr rfl
    have le : deadlineDistance s c ≤ deadlineDistance s e := by
      rcases List.mem_cons.mp he with rfl | he
      · exact le_rfl
      · exact List.rel_of_pairwise_cons ordered he
    exact notDue (one.mp (by omega))

theorem DeadlineLaw.tickNow {s : State} (law : DeadlineLaw s) (counts : s.handedOver = []) :
    DeadlineLaw (tickNow s) := by
  have ordered : s.deadlines.Pairwise fun x y => deadlineDistance s x ≤ deadlineDistance s y := by
    obtain ⟨l, split, ordered⟩ := law.split
    rwa [split, counts]
  have later := ordered.sublist (List.dropWhile_sublist (dueNext s))
  have nearer {e : EntryId} (he : e ∈ s.deadlines.dropWhile (dueNext s)) :
      deadlineDistance s e = deadlineDistance (Machine.tickNow s) e + 1 := by
    obtain ⟨d, some⟩ := Option.isSome_iff_exists.mp
      ((law.carried e).mp ((List.dropWhile_sublist (dueNext s)).subset he))
    exact deadlineDistance_tickNow some fun now => law.not_due_of_dropWhile later he (now ▸ some)
  refine .of_split (l := s.deadlines.dropWhile (dueNext s)) List.takeWhile_append_dropWhile.symm law.once
    law.carried law.claimed (fun e he => ?_) ?_
  · exact (dueNext_iff s e).mp (List.mem_takeWhile_imp he)
  · refine later.imp_of_mem fun hx hy le => ?_
    rw [nearer hx, nearer hy] at le
    exact Nat.le_of_succ_le_succ le

/-! ### Every change -/

theorem DeadlineLaw.of_timerChange {s t : State} (law : DeadlineLaw s) (h : TimerChange s t) :
    DeadlineLaw t := by
  cases h with
  | kept h => exact law.of_kept h
  | claim before untimed after => exact ((law.of_kept before).claimEntry untimed).of_kept after
  | leave after => exact (law.leaveDeadlines _).of_kept after
  | tick counts => exact law.tickNow counts
  | emptied deadlines handedOver none =>
    exact .of_split (l := []) (by rw [deadlines, handedOver]; rfl) (by rw [deadlines]; exact .nil)
      (fun e => by simp [deadlines, none]) (by simp [deadlines]) (by simp [handedOver]) .nil

theorem Change.keeps_deadlineLaw {s t : State} (h : Change s t) (entries : EntryLaw s)
    (law : DeadlineLaw s) : DeadlineLaw t := by
  cases h with
  | served _ _ _ timer => exact law.of_timerChange (timer entries)
  | @held p => exact law.of_kept (by cases p <;> exact .of_records)
  | @asserted _ p _ calm =>
    have line : TimerKept s (s.setResetLine p true) := by cases p <;> exact .of_records
    exact law.of_kept (line.trans calm.toTimerKept)
  | @released p => exact law.of_kept (by cases p <;> exact .of_records)

/-- What the law of the deadlines needs of the others, to be kept from one change to the next. -/
structure DeadlinesKept (s : State) : Prop where
  idle : OfflineIdle s
  entries : EntryLaw s
  deadlines : DeadlineLaw s

theorem DeadlinesKept.of_change {s t : State} (change : Change s t) (moves : Moves s t)
    (h : DeadlinesKept s) : DeadlinesKept t := by
  obtain ⟨idle, entries⟩ := moves.keeps (P := fun s => OfflineIdle s ∧ EntryLaw s)
    (fun _ _ m laws => ⟨m.keeps_offlineIdle laws.1, m.keeps_entryLaw laws.1 laws.2⟩) ⟨h.idle, h.entries⟩
  exact ⟨idle, entries, change.keeps_deadlineLaw h.entries h.deadlines⟩

/-- Settles O58: every change of a step keeps the deadlines, with the entries and the OFFLINE agents as their law
needs them. -/
theorem everyStepKeepsDeadlineLaw : Obligations.EveryStepKeepsDeadlineLaw :=
  fun _ _ entries agents deadlines h =>
    (step_keeps (fun _ _ => DeadlinesKept.of_change) h ⟨agents.offlineIdle, entries, deadlines⟩).deadlines

end Sys2Proof.Machine

end

/-!
Draining and flushing: DRAIN and FLUSH accepted (R96, R97, R100, R101), and the steps of a flush (R102, R104).
-/

section

-- Taken one after the other, the proofs need one thread (see Tests/Slice0.lean).
set_option Elab.async false

namespace Sys2Proof.Machine

/-! ## A queue command that is served -/

section QueueCommand

variable {s t : State} {r : Requester} {q : QueueId} {transition : State → Option State}

theorem CommandServed.portTakes (served : CommandServed s r q) : PortTakes s (requesterPort r) := by
  cases r with
  | agent a =>
    exact served.1.portTakes
  | control =>
    obtain ⟨line, running⟩ := served
    exact ⟨line, by simp [running]⟩

/-- An agent page passes its checks when the prefix passes and the agent consumes the queue (R35). -/
theorem queueCommandRefusal_none {a : AgentId} (served : CommandServed s (.agent a) q) :
    queueCommandRefusal s a q = none := by
  obtain ⟨serves, enabled, consumer⟩ := served
  simp [queueCommandRefusal, firstRefusal_cons, serves.prefix_none, enabled, consumer, refuseIf]

/-- A queue command that is served makes its transition, then answers OK (R35, R36). -/
theorem queueCommand_served (served : CommandServed s r q) (change : transition s = some t) (k : Action)
    (code : Byte) (refused : ResultCode) :
    queueCommand r q k code refused transition s = commandOk r q k code t := by
  cases r with
  | agent a =>
    rw [queueCommand, queueCommandRefusal_none served, change]
    rfl
  | control =>
    rw [queueCommand, if_pos served.2, change]
    rfl

theorem exec_drain_served (served : CommandServed s r q) (change : drainChange r q s = some t) :
    exec (.drain r q) s = .next (commandOk r q .drain 6 t) := by
  change execDrain r q s = _
  rw [execDrain, writeAccess_of_takes served.portTakes, queueCommand_served served change]

theorem exec_flush_served (served : CommandServed s r q) (change : flushChange r q s = some t) :
    exec (.flush r q) s = .next (commandOk r q .flush 7 t) := by
  change execFlush r q s = _
  rw [execFlush, writeAccess_of_takes served.portTakes, queueCommand_served served change]

end QueueCommand

/-! ## The transitions of DRAIN and FLUSH -/

section Transitions

variable {s : State} {r : Requester} {q : QueueId}

/-- DRAIN tests the entries of an OPEN or PAUSED queue (R97). -/
theorem drainChange_eq (live : (s.queue q).state = .open ∨ (s.queue q).state = .paused) :
    drainChange r q s =
      if queuedCount s q = 0 ∧ claimCount s q = 0 then
        some (reportClosed (some r) q (s.setQueue q { s.queue q with state := .closed }))
      else some (s.setQueue q { s.queue q with state := .draining, requester := some r }) := by
  unfold drainChange
  rcases live with state | state <;> rw [state]

theorem drainChange_of_entries (live : (s.queue q).state = .open ∨ (s.queue q).state = .paused)
    (entries : 0 < queuedCount s q + claimCount s q) :
    drainChange r q s = some (s.setQueue q { s.queue q with state := .draining, requester := some r }) := by
  rw [drainChange_eq live, if_neg (by omega)]

theorem drainChange_of_empty (live : (s.queue q).state = .open ∨ (s.queue q).state = .paused)
    (empty : queuedCount s q + claimCount s q = 0) :
    drainChange r q s = some (reportClosed (some r) q (s.setQueue q { s.queue q with state := .closed })) := by
  rw [drainChange_eq live, if_pos (by omega)]

/-- FLUSH begins from every state but DISABLED and FLUSHING (R101). -/
theorem flushChange_eq (begins : (s.queue q).state = .open ∨ (s.queue q).state = .paused ∨
      (s.queue q).state = .draining ∨ (s.queue q).state = .closed) :
    flushChange r q s =
      some (s.setQueue q { s.queue q with state := .flushing, requester := some r, flushCount := 0 }) := by
  unfold flushChange
  rcases begins with state | state | state | state <;> rw [state]

end Transitions

/-! ## Reports -/

/-- An event is offered when the list and the lost flag are those of its offer (R142). -/
theorem eventOffered_of_eq {s t : State} {e : SupervisorEvent}
    (events : t.events = if s.events.length < 16 then s.events ++ [e] else s.events)
    (lost : t.eventsLost = if s.events.length < 16 then s.eventsLost else true) : EventOffered s t e := by
  unfold EventOffered
  split
  · rename_i room
    exact ⟨events.trans (if_pos room), lost.trans (if_pos room)⟩
  · rename_i full
    exact ⟨events.trans (if_neg full), lost.trans (if_neg full)⟩

/-- Settles O36: the command is served, so it makes its transition (`drainChange_eq`, `flushChange_eq`) and answers
OK; the report of an empty queue goes to the page that is answered. -/
theorem drainAndFlushAccepted : Obligations.DrainAndFlushAccepted := by
  intro s r q served x notice
  refine ⟨fun live => ⟨fun entries => ?_, fun empty => ?_⟩, fun begins => ?_⟩
  · exact exec_drain_served served (drainChange_of_entries live entries)
  · refine ⟨_, exec_drain_served served (drainChange_of_empty live empty), ?_⟩
    cases r with
    | agent a =>
      rw [reportClosed, report, offerNotice_eq, commandOk, State.setAgent_answer]
      exact ⟨fun p => Table.get_set .., fun b => Table.get_set .., rfl⟩
    | control =>
      rw [reportClosed, report, offerEvent_eq]
      exact ⟨fun p => Table.get_set .., eventOffered_of_eq rfl rfl, rfl, rfl⟩
  · exact exec_flush_served served (flushChange_eq begins)

/-! ## The steps of a flush -/

section FlushStep

variable {s : State} {q : QueueId} {e : EntryId} {y : Queue} (flushing : (s.queue q).state = .flushing)

theorem Queue.front_of_empty {x : Queue} (urgent : x.urgent = []) (normal : x.normal = []) :
    x.front = none := by
  simp [Queue.front, urgent, normal]

/-- Taking the front entry off a queue leaves its flush count. -/
theorem FrontEntry.flushCount_eq {x : Queue} (front : FrontEntry x e y) : y.flushCount = x.flushCount := by
  rcases front with ⟨_, -, rfl⟩ | ⟨_, -, -, rfl⟩ <;> rfl

/-- A flush step counts the front entry, frees it, and drops its reference (R102). -/
theorem flushDrop_eq (front : FrontEntry (s.queue q) e y) : flushDrop q e s =
    dropReference (s.entry e).frame
      (freeEntry e (s.setQueue q { y with flushCount := (s.queue q).flushCount + 1 })) := by
  rw [flushDrop, front.front_eq.2, ← front.flushCount_eq]

include flushing

theorem exec_flushStep_of_front (front : FrontEntry (s.queue q) e y) :
    exec (.flushStep q) s = .next (flushDrop q e s) := by
  change execFlushStep q s = _
  rw [execFlushStep, if_pos flushing, front.front_eq.1]

theorem exec_flushStep_of_empty (urgent : (s.queue q).urgent = []) (normal : (s.queue q).normal = []) :
    exec (.flushStep q) s = .next (flushEnd q s) := by
  change execFlushStep q s = _
  rw [execFlushStep, if_pos flushing, Queue.front_of_empty urgent normal]

end FlushStep

/-- Settles O38: the step drops the front entry (`flushDrop_eq`), whose freeing changes no frame, or is the flush end,
which reports to the requester. -/
theorem flushStepDropsOrEnds : Obligations.FlushStepDropsOrEnds := by
  intro s q flushing x
  refine ⟨fun e y front => ?_, fun r urgent normal requester => ?_⟩
  · have run := exec_flushStep_of_front flushing front
    rw [flushDrop_eq front] at run
    refine ⟨_, run, ?_⟩
    obtain ⟨drop, only⟩ := referenceDropped (s.entry e).frame
      (freeEntry e (s.setQueue q { y with flushCount := (s.queue q).flushCount + 1 }))
    generalize dropReference (s.entry e).frame _ = t at drop only
    refine ⟨fun p => ?_, fun d => ?_, congrArg State.freeEntries only,
      drop.congr rfl rfl rfl rfl rfl rfl rfl rfl, ?_⟩
    · exact (congrArg (·.queue p) only).trans (Table.get_set ..)
    · exact (congrArg (·.entry d) only).trans (Table.get_set ..)
    · exact congrArg (fun u : State =>
        { u with
          queues := s.queues, entries := s.entries, freeEntries := s.freeEntries, frames := s.frames,
          freeLists := s.freeLists, scrubList := s.scrubList, pools := s.pools }) only
  · refine ⟨_, exec_flushStep_of_empty flushing urgent normal, ?_⟩
    rw [flushEnd, requester]
    cases r with
    | agent a =>
      rw [report, offerNotice_eq]
      exact ⟨fun p => Table.get_set .., fun b => Table.get_set .., rfl⟩
    | control =>
      rw [report, offerEvent_eq]
      exact ⟨fun p => Table.get_set .., eventOffered_of_eq rfl rfl, rfl⟩

end Sys2Proof.Machine

end

/-!
Accesses, agents and their retirement: the gate of a port (R118, R150, R163), the beginning and the end of a retire
(R116 to R122), Agent Configuration (R110), and the writes that are no command (R112, R152, R162).
-/

section

-- Taken one after the other, the proofs need one thread (see Tests/Slice0.lean).
set_option Elab.async false

namespace Sys2Proof.Machine

/-! ## The gate of a port -/

/-- A port in reset holds the access (R118). -/
theorem takeAccess_of_reset {s : State} {p : Port} (line : s.resetLine p = true) (c : HeldAccess)
    (inInit : State → State) (run : State → Out) :
    takeAccess p c inInit run s = .next (s.setHeldAccesses p (s.heldAccesses p ++ [c])) := by
  rw [takeAccess, if_pos line]

theorem takeAccess_of_init {s : State} {p : Port} (line : s.resetLine p = false)
    (init : s.controller = .init) (c : HeldAccess) (inInit : State → State) (run : State → Out) :
    takeAccess p c inInit run s = .next (inInit s) := by
  rw [takeAccess, line, if_neg Bool.false_ne_true, if_pos init]

/-- Every access passes the bus gate of its port (R118, R150). -/
theorem exec_eq_takeAccess {c : Instr} {p : Port} (wellFormed : WellFormed c = true)
    (port : accessPort c = some p) :
    ∃ run, exec c = takeAccess p (.command c) (fun s => if isRead c = true then s.returns p 0 else s) run := by
  cases c
  case unknownAgentCommand a code =>
    cases port
    exact ⟨_, funext fun s => if_pos wellFormed⟩
  case unknownControlCommand w =>
    cases port
    exact ⟨_, funext fun s => if_pos wellFormed⟩
  case ignoredWrite port page offset w =>
    cases port
    exact ⟨_, funext fun s => if_pos wellFormed⟩
  all_goals cases port
  all_goals exact ⟨_, rfl⟩

/-- Settles O46: every command of a port passes the bus gate (`exec_eq_takeAccess`), and a read that is no command is
a plain read. -/
theorem accessesNotTaken : Obligations.AccessesNotTaken := by
  intro s
  refine ⟨fun c p wellFormed port => ?_, fun x read plain => ?_⟩
  · obtain ⟨run, gate⟩ := exec_eq_takeAccess wellFormed port
    rw [gate]
    refine ⟨fun line => takeAccess_of_reset line .., fun line init => ?_⟩
    exact takeAccess_of_init line init ..
  · have access : s.access x = .read (plainRead x.port x.place s) := by
      rw [State.access, BusAccess.command, read, plain]
    rw [access]
    refine ⟨fun line => ?_, fun line init => ?_, fun takes => ?_⟩
    · rw [plainRead, if_pos line]
    · rw [plainRead, line, if_neg Bool.false_ne_true, if_pos init]
    · rw [plainRead, takes.1, if_neg Bool.false_ne_true, if_neg takes.2]

/-! ## The release of a port's reset line -/

/-- Taking held accesses is running them: those that are commands are accesses (R118). -/
theorem takeHeldAll_eq_execAll {p : Port} : ∀ {l : List HeldAccess},
    (∀ c, .command c ∈ l → (accessPort c).isSome = true) → ∀ s, takeHeldAll p l s = execAll p l s
  | [], _, _ => rfl
  | .read x :: l, accesses, s =>
    takeHeldAll_eq_execAll (fun c hc => accesses c (List.mem_cons_of_mem _ hc)) (plainRead p x s)
  | .command c :: l, accesses, s => by
    rw [takeHeldAll, takeHeld, takeCommand_eq_exec (accesses c List.mem_cons_self), execAll]
    cases exec c s with
    | next t => exact takeHeldAll_eq_execAll (fun c hc => accesses c (List.mem_cons_of_mem _ hc)) t
    | fault r => rfl
    | refused r => rfl

/-- Settles O29: what the port holds is taken as a run (`takeHeldAll_eq_execAll`). -/
theorem portResetReleaseTakesHeldAccesses : Obligations.PortResetReleaseTakesHeldAccesses := by
  intro s p
  refine ⟨fun none => ?_, fun accesses => takeHeldAll_eq_execAll accesses _⟩
  change takeHeldAll p (s.heldAccesses p) _ = _
  rw [none]
  cases p
  · change s.heldA = [] at none
    simp only [takeHeldAll, State.setResetLine, State.setHeldAccesses, ← none]
  · change s.heldB = [] at none
    simp only [takeHeldAll, State.setResetLine, State.setHeldAccesses, ← none]

/-! ## The beginning of a retire -/

theorem beginRetire_queue (a : AgentId) (cause : RetireCause) (s : State) (q : QueueId) :
    (beginRetire a cause s).queue q =
      if (s.queue q).consumer = a ∧ (s.queue q).state = .open then { s.queue q with state := .paused }
      else s.queue q := Table.get_map ..

theorem beginRetire_agent (a b : AgentId) (cause : RetireCause) (s : State) :
    (beginRetire a cause s).agent b = if b = a then (s.agent a).retiringFor cause else s.agent b :=
  Table.get_set ..

/-- RETIRE is a write of the control page (R117). -/
theorem exec_retire {s : State} (takes : PortTakes s .a) (a : AgentId) :
    exec (.retire a) s = .next
      (if s.controller = .running ∧ (s.agent a).state = .online then
        (beginRetire a .retire s).controlAnswer .ok (.command 9) a.val
      else s.controlAnswer .wrongState (.command 9) a.val) := by
  change execRetire a s = _
  rw [execRetire, writeAccess_of_takes takes]

/-- Settles O27: both commands begin the retire of an ONLINE agent, and answer. -/
theorem retireBegins : Obligations.RetireBegins := by
  intro s a beginning paused
  refine ⟨fun serves => ⟨(beginRetire a .detach s).answer a .ok .detach 0, ?_, fun b => ?_,
      beginRetire_queue a .detach s, ?_⟩,
    fun code takes refusal => ?_,
    fun line running online => ⟨(beginRetire a .retire s).controlAnswer .ok (.command 9) a.val, ?_,
      fun b => beginRetire_agent a b .retire s, beginRetire_queue a .retire s, rfl, ?_⟩,
    fun takes refused => ?_⟩
  · change execDetach a s = _
    rw [execDetach, writeAccess_of_takes serves.portTakes, serves.prefix_none]
  · rw [State.answer_agent, beginRetire_agent, beginRetire_agent, if_pos rfl]
    split <;> rfl
  · simp only [State.answer, beginRetire, State.setAgent]
  · change execDetach a s = _
    rw [execDetach, writeAccess_of_takes takes, commonPrefix_eq, refusal]
  · rw [exec_retire ⟨line, by simp [running]⟩, if_pos ⟨running, online⟩]
  · simp only [State.controlAnswer, beginRetire, State.setAgent]
  · rw [exec_retire takes, if_neg (by tauto)]

/-! ## The assertion of a port's reset line -/

theorem agentPort_of_mem_portAgents {p : Port} {a : AgentId} : a ∈ portAgents p ↔ agentPort a = p := by
  simp [portAgents]

theorem retireForPort_agent (s : State) (a b : AgentId) : (retireForPort s a).agent b =
    if b = a ∧ (s.agent b).state = .online then (s.agent b).retiringFor .portReset else s.agent b := by
  unfold retireForPort
  by_cases online : (s.agent a).state = .online
  · rw [if_pos online, beginRetire_agent]
    by_cases same : b = a
    · subst same; simp [online]
    · simp [same]
  · rw [if_neg online, if_neg]
    rintro ⟨rfl, h⟩
    exact online h

theorem retireForPort_queue (s : State) (a : AgentId) (q : QueueId) : (retireForPort s a).queue q =
    if ((s.queue q).consumer = a ∧ (s.agent a).state = .online) ∧ (s.queue q).state = .open then
      { s.queue q with state := .paused }
    else s.queue q := by
  unfold retireForPort
  by_cases online : (s.agent a).state = .online
  · rw [if_pos online, beginRetire_queue]
    simp only [online, and_true]
  · rw [if_neg online]
    simp only [online, and_false, false_and, if_false]

/-- Each ONLINE agent of the list retires, its OPEN queues are paused, and nothing else changes (R118). -/
theorem retireForPort_foldl : ∀ (l : List AgentId) (s : State), l.Nodup →
    let t := l.foldl retireForPort s
    (∀ a, t.agent a =
      if a ∈ l ∧ (s.agent a).state = .online then (s.agent a).retiringFor .portReset else s.agent a) ∧
    (∀ q, t.queue q =
      if ((s.queue q).consumer ∈ l ∧ (s.agent (s.queue q).consumer).state = .online) ∧
          (s.queue q).state = .open then
        { s.queue q with state := .paused }
      else s.queue q) ∧
    { t with agents := s.agents, queues := s.queues } = s
  | [], s, _ => ⟨by simp, by simp, rfl⟩
  | a :: l, s, once => by
    obtain ⟨notin, once⟩ := List.nodup_cons.mp once
    obtain ⟨agents, queues, only⟩ := retireForPort_foldl l (retireForPort s a) once
    have consumer (q : QueueId) : ((retireForPort s a).queue q).consumer = (s.queue q).consumer := by
      rw [retireForPort_queue]
      split <;> rfl
    refine ⟨fun b => ?_, fun q => ?_, ?_⟩
    · rw [List.foldl_cons, agents, retireForPort_agent]
      by_cases same : b = a
      · subst same
        simp [notin]
      · simp [same]
    · rw [List.foldl_cons, queues, consumer, retireForPort_agent, retireForPort_queue]
      by_cases same : (s.queue q).consumer = a
      · simp [same, notin]
      · simp [same]
    · have first : { retireForPort s a with agents := s.agents, queues := s.queues } = s := by
        unfold retireForPort
        split <;> rfl
      exact (congrArg (fun t : State => { t with agents := s.agents, queues := s.queues }) only).trans first

/-- Settles O28: the assertion begins a retire of each agent of the port that is ONLINE (`retireForPort_foldl`). -/
theorem portResetRetiresOnlineAgents : Obligations.PortResetRetiresOnlineAgents := by
  intro s p
  have run : exec (.portResetAssert p) s = if s.resetLine p then .next s
      else .next ((portAgents p).foldl retireForPort (s.setResetLine p true)) := rfl
  rw [run]
  refine ⟨fun line => if_pos line, fun line => ⟨_, by rw [line]; rfl, ?_⟩⟩
  obtain ⟨agents, queues, only⟩ := retireForPort_foldl (portAgents p) (s.setResetLine p true)
    ((List.nodup_finRange 8).filter _)
  simp only [agentPort_of_mem_portAgents, State.setResetLine_agent, State.setResetLine_queue, and_assoc]
    at agents queues
  refine ⟨agents, queues, ?_⟩
  rw [State.setResetLine_agents, State.setResetLine_queues] at only
  exact only

/-! ## The free step of a retire -/

/-- A free step gives the oldest held frame back and counts it (R121). -/
theorem exec_retireFreeStep_of_held {s : State} {a : AgentId} {f : FrameIdx} {rest : List FrameIdx}
    (retiring : (s.agent a).state = .retiring) (claims : (s.agent a).claims = [])
    (held : (s.agent a).held = f :: rest) : exec (.retireFreeStep a) s = .next (retireFree a f s) := by
  change execRetireFreeStep a s = _
  rw [execRetireFreeStep, if_pos ⟨retiring, claims⟩, held]

theorem exec_retireFreeStep_of_none {s : State} {a : AgentId} (retiring : (s.agent a).state = .retiring)
    (claims : (s.agent a).claims = []) (held : (s.agent a).held = []) :
    exec (.retireFreeStep a) s = .next (endRetire a s) := by
  change execRetireFreeStep a s = _
  rw [execRetireFreeStep, if_pos ⟨retiring, claims⟩, held]

theorem endRetire_eq (a : AgentId) (s : State) : endRetire a s =
    offerEvent
      (.agentRetired a (s.agent a).returned (s.agent a).dropped (s.agent a).freed
        ((s.agent a).cause.getD .detach))
      (s.setAgent a ((s.agent a).cleared .offline)) := rfl

/-- Settles O31: with a frame held the step is that of FREE on the frame (`takesFreePath`); with none it clears the
agent's context and offers the event. -/
theorem retireFreeStepFreesOldestOrEnds : Obligations.RetireFreeStepFreesOldestOrEnds := by
  intro s a retiring claims x
  refine ⟨fun f rest held => ?_, fun cause held present => ?_⟩
  · refine ⟨_, exec_retireFreeStep_of_held retiring claims held, ?_⟩
    obtain ⟨takes, only⟩ := takesFreePath f { s.frame f with refs := 0, holder := none } (leaveHeld a f s)
    have back : giveBack a f s =
      freePath f ((leaveHeld a f s).setFrame f { s.frame f with refs := 0, holder := none }) := rfl
    rw [retireFree, back]
    generalize freePath f _ = v at takes only
    have agent (b : AgentId) : v.agent b =
        if b = a then { s.agent a with held := (s.agent a).held.erase f } else s.agent b :=
      (congrArg (·.agent b) only).trans (Table.get_set ..)
    refine ⟨fun b => ?_, takes.congr rfl rfl rfl rfl rfl rfl rfl rfl, ?_⟩
    · rw [State.setAgent_agent, agent, if_pos rfl, held, List.erase_cons_head]
      split
      · rfl
      · rename_i other
        rw [agent, if_neg other]
    · exact congrArg (fun u : State => { u with agents := s.agents }) only
  · refine ⟨_, exec_retireFreeStep_of_none retiring claims held, ?_⟩
    rw [endRetire_eq, present, offerEvent_eq]
    exact ⟨fun b => Table.get_set .., eventOffered_of_eq rfl rfl, rfl⟩

end Sys2Proof.Machine

end

section

-- Taken one after the other, the proofs need one thread (see Tests/Slice0.lean).
set_option Elab.async false

namespace Sys2Proof.Machine

/-! ## Agent Configuration -/

/-- A word has no bit of two masks together exactly when it has none of either. -/
theorem and_or_eq_zero_iff (w m n : Word) : w &&& (m ||| n) = 0 ↔ w &&& m = 0 ∧ w &&& n = 0 := by
  rw [BitVec.and_or_distrib_left]
  exact BitVec.or_eq_zero_iff

/-- A one-bit field is 0 exactly when the bit is clear. -/
theorem extractLsb'_one_eq_zero_iff (w : Word) (i : Nat) : w.extractLsb' i 1 = 0 ↔ w.getLsbD i = false := by
  constructor
  · intro clear
    simpa using congrArg (·.getLsbD 0) clear
  · intro clear
    apply BitVec.eq_of_getLsbD_eq
    intro j inside
    obtain rfl : j = 0 := by omega
    simpa using clear

/-- The bits outside the fields of an Agent Configuration word (R168). -/
theorem agentMask_eq_zero_iff (w : Word) : w &&& 0xCE80F800#32 = 0 ↔
    w.extractLsb' 11 5 = 0 ∧ w.getLsbD 23 = false ∧ w.extractLsb' 25 3 = 0 ∧ w.extractLsb' 30 2 = 0 := by
  have masks : 0xCE80F800#32 = 0xF800#32 ||| (0x800000#32 ||| (0xE000000#32 ||| 0xC0000000#32)) := by decide
  rw [masks, and_or_eq_zero_iff, and_or_eq_zero_iff, and_or_eq_zero_iff,
    and_mask_eq_zero_iff 11 5 w (by decide), and_mask_eq_zero_iff 23 1 w (by decide),
    and_mask_eq_zero_iff 25 3 w (by decide), and_mask_eq_zero_iff 30 2 w (by decide),
    extractLsb'_one_eq_zero_iff]

/-- The words that Agent Configuration refuses with BAD_VALUE (R110, R168). -/
def BadAgentWord (w : Word) : Prop :=
  (w.extractLsb' 0 11).toNat = 0 ∨ 1024 < (w.extractLsb' 0 11).toNat ∨
    (w.extractLsb' 16 7).toNat = 0 ∨ 64 < (w.extractLsb' 16 7).toNat ∨ w.extractLsb' 11 5 ≠ 0 ∨
    w.getLsbD 23 = true ∨ w.extractLsb' 25 3 ≠ 0 ∨ w.extractLsb' 30 2 ≠ 0

theorem not_badAgentWord_iff (w : Word) : ¬BadAgentWord w ↔
    1 ≤ (w.extractLsb' 0 11).toNat ∧ (w.extractLsb' 0 11).toNat ≤ 1024 ∧
      1 ≤ (w.extractLsb' 16 7).toNat ∧ (w.extractLsb' 16 7).toNat ≤ 64 ∧ w &&& 0xCE80F800#32 = 0 := by
  simp only [BadAgentWord, not_or, not_lt, ne_eq, not_not, Bool.not_eq_true, agentMask_eq_zero_iff,
    Nat.one_le_iff_ne_zero]

theorem agentOfWord_bad {w : Word} (bad : BadAgentWord w) (x : Agent) : agentOfWord x w = none :=
  if_neg fun good => (not_badAgentWord_iff w).mpr good bad

theorem agentOfWord_good {w : Word} (good : ¬BadAgentWord w) (x : Agent) : agentOfWord x w =
    some { x with
      enable := w.getLsbD 24, quota := (w.extractLsb' 0 11).toNat
      claimLimit := (w.extractLsb' 16 7).toNat } := if_pos ((not_badAgentWord_iff w).mp good)

/-- Settles O40: BAD_VALUE is tested first, on the value alone (`BadAgentWord`), then the state. -/
theorem agentConfigurationWritten : Obligations.AgentConfigurationWritten := by
  intro s a w takes x quota limit subject bad
  change (BadAgentWord w → _) ∧ (¬BadAgentWord w → _) ∧ (¬BadAgentWord w → _)
  have run : exec (.agentConfiguration a w) s = execAgentConfiguration a w s := rfl
  rw [run, execAgentConfiguration, writeAccess_of_takes takes]
  have refused : (x.state != .offline && (quota != x.quota || limit != x.claimLimit)) = true ↔
      x.state ≠ .offline ∧ (quota ≠ x.quota ∨ limit ≠ x.claimLimit) := by
    simp only [Bool.and_eq_true, Bool.or_eq_true, bne_iff_ne]
  refine ⟨fun bad => ?_, fun good active changed => ?_, fun good kept => ?_⟩
  · simp only [agentOfWord_bad bad]
    rfl
  · have refused := refused.mpr ⟨active, changed⟩
    simp only [agentOfWord_good good]
    change Host.Outcome.next (configure _ _ (refuseIf (x.state != .offline && (quota != x.quota ||
      limit != x.claimLimit)) .wrongState) _ s) = _
    rw [refused]
    rfl
  · have passes : (x.state != .offline && (quota != x.quota || limit != x.claimLimit)) = false := by
      rw [← Bool.not_eq_true, refused]
      tauto
    simp only [agentOfWord_good good]
    change Host.Outcome.next (configure _ _ (refuseIf (x.state != .offline && (quota != x.quota ||
      limit != x.claimLimit)) .wrongState) _ s) = _
    rw [passes]
    rfl

/-! ## Unknown commands -/

/-- The command codes of an agent page are 1 to 7 (R164). -/
theorem agentCommand_isNone_iff (a : AgentId) (code : Byte) (q : QueueId) :
    (agentCommand a code q).isNone = true ↔ code.toNat = 0 ∨ 7 < code.toNat := by
  unfold agentCommand
  split
  all_goals simp_all
  omega

theorem onQueue_eq_none_iff (n : Nat) (c : QueueId → Instr) : onQueue n c = none ↔ 31 < n := by
  rw [onQueue, dite_eq_right_iff]
  simp only [reduceCtorEq, imp_false]
  omega

theorem onAgent_eq_none_iff (n : Nat) (c : AgentId → Instr) : onAgent n c = none ↔ 7 < n := by
  rw [onAgent, dite_eq_right_iff]
  simp only [reduceCtorEq, imp_false]
  omega

theorem withoutOperand_eq_none_iff (n : Nat) (c : Instr) : withoutOperand n c = none ↔ n ≠ 0 := by
  rw [withoutOperand, ite_eq_right_iff]
  simp only [reduceCtorEq, imp_false, ne_eq]

/-- The operand does not fit the control command's code (R152). -/
def OperandOutOfRange (code operand : Nat) : Prop :=
  code ≤ 2 ∧ operand ≠ 0 ∨ 3 ≤ code ∧ code ≠ 9 ∧ 31 < operand ∨ code = 9 ∧ 7 < operand

/-- A known code names no command exactly when its operand is out of range (R152). -/
theorem controlCommand_eq_none_iff {code : Nat} (operand : Nat) (known : 1 ≤ code ∧ code ≤ 10) :
    controlCommand code operand = none ↔ OperandOutOfRange code operand := by
  obtain ⟨low, high⟩ := known
  unfold OperandOutOfRange
  interval_cases code <;>
    simp [controlCommand, onQueue_eq_none_iff, onAgent_eq_none_iff, withoutOperand_eq_none_iff]

theorem controlCommand_of_unknown {code : Nat} (operand : Nat) (unknown : code = 0 ∨ 10 < code) :
    controlCommand code operand = none := by
  unfold controlCommand
  split
  case h_11 => rfl
  all_goals omega

theorem isControlCode_iff (code : Byte) : isControlCode code = true ↔ 1 ≤ code.toNat ∧ code.toNat ≤ 10 := by
  simp [isControlCode]

/-- A Control Command word names no command when its code does not (R152, R166). -/
theorem controlCommandOf_of_unknown {w : Word}
    (unknown : (commandCode w).toNat = 0 ∨ 10 < (commandCode w).toNat) : controlCommandOf w = none := by
  rw [controlCommandOf, controlCommand_of_unknown _ unknown, ite_self]

/-- With a known code a Control Command word names no command when a bit above the operand is set or the operand is
out of range (R152, R166). -/
theorem controlCommandOf_eq_none_iff {w : Word}
    (known : 1 ≤ (commandCode w).toNat ∧ (commandCode w).toNat ≤ 10) :
    controlCommandOf w = none ↔
      w.extractLsb' 16 16 ≠ 0 ∨ OperandOutOfRange (commandCode w).toNat (controlOperand w).toNat := by
  rw [← controlCommand_eq_none_iff _ known, controlCommandOf]
  by_cases clear : w.extractLsb' 16 16 = 0
  · rw [if_pos clear]
    exact (or_iff_right (not_not_intro clear)).symm
  · exact iff_of_true (if_neg clear) (.inl clear)

/-- A Control Command word that names no command is answered by its code (R152, R153). -/
theorem exec_unknownControlCommand {s : State} {w : Word} (takes : PortTakes s .a)
    (none : controlCommandOf w = none) : exec (.unknownControlCommand w) s = .next
      (if isControlCode (commandCode w) then
        s.controlAnswer .badValue (.command (commandCode w)) (controlOperand w).toNat
      else s.controlAnswer .badCommand (.command (commandCode w)) 0) := by
  change execUnknownControlCommand w s = _
  rw [execUnknownControlCommand, none, Option.isNone_none, if_pos rfl, writeAccess_of_takes takes]

/-! ## Places that ignore writes -/

/-- The byte offsets of an agent page that ignore writes: the ports that act on a read, the read-only registers, and
the offsets that hold nothing (R164). -/
theorem agentWrite_eq_none_iff (staged : DestKind) (a : AgentId) (offset : BitVec 10) (lanes : BitVec 4)
    (w : Word) : agentWrite staged a (agentPlace offset) lanes w = none ↔
      4 * offset.toNat ≤ 0x09C ∨ 0x0CC ≤ 4 * offset.toNat ∧ 4 * offset.toNat ≤ 0x0EC ∨
        0x0F4 ≤ 4 * offset.toNat ∧ 4 * offset.toNat ≤ 0x7FC := by
  rw [← Option.isNone_iff_eq_none]
  unfold agentPlace
  dsimp only
  generalize offset.toNat = k
  simp only [apply_ite (fun x => (agentWrite staged a x lanes w).isNone)]
  simp only [agentWrite, Option.isNone_none, Option.isNone_some, Bool.if_true_left, Bool.if_false_left,
    Bool.if_true_right, Bool.or_eq_true, Bool.and_eq_true, Bool.not_eq_true', Bool.false_eq_true, or_false,
    decide_eq_true_eq, decide_eq_false_iff_not]
  omega

/-- The byte offsets of the control page that ignore writes: all but the command register and the configuration
registers (R166). -/
theorem controlWrite_eq_none_iff (offset : BitVec 10) (w : Word) :
    controlWrite (controlPlace offset) w = none ↔
      ¬(4 * offset.toNat = 0x004 ∨ 4 * offset.toNat = 0x00C ∨ 4 * offset.toNat = 0x014 ∨
        4 * offset.toNat = 0x020 ∨ 0x040 ≤ 4 * offset.toNat ∧ 4 * offset.toNat ≤ 0x04C ∨
        0x060 ≤ 4 * offset.toNat ∧ 4 * offset.toNat ≤ 0x09C ∨
        0x100 ≤ 4 * offset.toNat ∧ 4 * offset.toNat ≤ 0x1FC) := by
  rw [← Option.isNone_iff_eq_none]
  unfold controlPlace
  dsimp only
  generalize offset.toNat = k
  simp only [apply_ite (fun x => (controlWrite x w).isNone)]
  simp only [controlWrite, Option.isNone_none, Option.isNone_some, Bool.if_true_left, Bool.if_false_left,
    Bool.if_true_right, Bool.or_eq_true, Bool.and_eq_true, Bool.not_eq_true', Bool.false_eq_true, or_false,
    ite_self, decide_eq_true_eq, decide_eq_false_iff_not]
  omega

/-- The places that ignore writes, by page and offset (R162, R164, R166). -/
def IgnoredAt (port : Port) (page : BitVec 4) (offset : BitVec 10) : Prop :=
  let k := 4 * offset.toNat
  if page.toNat < 4 then k ≤ 0x09C ∨ 0x0CC ≤ k ∧ k ≤ 0x0EC ∨ 0x0F4 ≤ k ∧ k ≤ 0x7FC
  else if port = .a ∧ page.toNat = 8 then
    ¬(k = 0x004 ∨ k = 0x00C ∨ k = 0x014 ∨ k = 0x020 ∨ 0x040 ≤ k ∧ k ≤ 0x04C ∨
      0x060 ≤ k ∧ k ≤ 0x09C ∨ 0x100 ≤ k ∧ k ≤ 0x1FC)
  else True

theorem writeCommand_eq_none_iff (staged : AgentId → DestKind) (port : Port) (page : BitVec 4)
    (offset : BitVec 10) (lanes : BitVec 4) (w : Word) :
    writeCommand staged (place port page offset) lanes w = none ↔ IgnoredAt port page offset := by
  unfold IgnoredAt place
  by_cases agent : page.toNat < 4
  · cases port
    all_goals
      rw [if_pos agent]
      simp only [if_pos agent]
      exact agentWrite_eq_none_iff ..
  · cases port with
    | a =>
      by_cases control : page.toNat = 8
      · simp only [if_neg agent, if_pos control, true_and]
        exact controlWrite_eq_none_iff ..
      · simp only [if_neg agent, control, if_false, and_false]
        exact iff_of_true rfl trivial
    | b =>
      simp only [if_neg agent, reduceCtorEq, false_and, if_false]
      exact iff_of_true rfl trivial

theorem ignoresWrites_iff (port : Port) (page : BitVec 4) (offset : BitVec 10) :
    ignoresWrites (place port page offset) = true ↔ IgnoredAt port page offset := by
  rw [ignoresWrites, Option.isNone_iff_eq_none]
  exact writeCommand_eq_none_iff ..

/-- No write to a place that takes writes is decoded as an ignored one. -/
theorem writeCommand_ne_ignoredWrite (staged : AgentId → DestKind) (x : Place) (lanes : BitVec 4) (w v : Word)
    (port : Port) (page : BitVec 4) (offset : BitVec 10) :
    writeCommand staged x lanes w ≠ some (.ignoredWrite port page offset v) := by
  have agent (a : AgentId) : agentCommandOf a w ≠ .ignoredWrite port page offset v := by
    unfold agentCommandOf agentCommand
    split <;> exact nofun
  have control : (controlCommandOf w).getD (.unknownControlCommand w) ≠ .ignoredWrite port page offset v := by
    unfold controlCommandOf controlCommand onQueue onAgent withoutOperand
    repeat' split
    all_goals exact nofun
  cases x with
  | undecoded => exact nofun
  | control x =>
    cases x
    case controlCommand => exact fun e => control (Option.some.inj e)
    all_goals exact nofun
  | agent a x =>
    cases x
    case command => exact fun e => agent a (Option.some.inj e)
    case post =>
      have post (k : DestKind) : agentWrite k a .post lanes w ≠ some (.ignoredWrite port page offset v) := by
        cases k <;> exact nofun
      exact post (staged a)
    all_goals exact nofun

/-- A bus write comes to an ignored write exactly at a place that ignores it. -/
theorem access_ignored_iff (s : State) {x : BusAccess} {w : Word} (written : x.written = some w) :
    s.access x = .command (.ignoredWrite x.port x.page x.offset w) ↔ IgnoredAt x.port x.page x.offset := by
  rw [← writeCommand_eq_none_iff (fun a => (s.agent a).staging.kind) x.port x.page x.offset x.lanes w,
    State.access, BusAccess.command, written]
  change BusResult.command _ = _ ↔ writeCommand _ x.place _ _ = none
  rw [BusResult.command.injEq]
  cases h : writeCommand (fun a => (s.agent a).staging.kind) x.place x.lanes w with
  | none => exact iff_of_true rfl rfl
  | some c =>
    refine iff_of_false (fun e => ?_) nofun
    rw [Option.getD_some] at e
    exact writeCommand_ne_ignoredWrite _ _ _ _ _ _ _ _ (h.trans (congrArg some e))

/-- Settles O34: the codes and operands that name no command (`agentCommand_isNone_iff`,
`controlCommandOf_eq_none_iff`), and the places that ignore writes (`writeCommand_eq_none_iff`). -/
theorem unknownCommandsAnswered : Obligations.UnknownCommandsAnswered := by
  intro s
  refine ⟨fun a code => ⟨fun takes unknown => ?_, fun low high => ?_⟩,
    fun w => ⟨fun takes unknown => ?_, fun takes low high bad => ?_, fun low high good => ?_⟩,
    fun port page offset w => ⟨fun takes ignored => ?_, fun taken => ?_⟩,
    fun x w written => access_ignored_iff s written⟩
  · change execUnknownAgentCommand a code s = _
    rw [execUnknownAgentCommand, (agentCommand_isNone_iff ..).mpr unknown, if_pos rfl, writeAccess_of_takes takes]
  · change execUnknownAgentCommand a code s = _
    rw [execUnknownAgentCommand, if_neg]
    rw [agentCommand_isNone_iff]
    omega
  · rw [exec_unknownControlCommand takes (controlCommandOf_of_unknown unknown), if_neg]
    · rfl
    · rw [isControlCode_iff]
      change ¬(1 ≤ (w.extractLsb' 0 8).toNat ∧ (w.extractLsb' 0 8).toNat ≤ 10)
      omega
  · rw [exec_unknownControlCommand takes ((controlCommandOf_eq_none_iff ⟨low, high⟩).mpr bad),
      if_pos ((isControlCode_iff (commandCode w)).mpr ⟨low, high⟩)]
    rfl
  · change execUnknownControlCommand w s = _
    rw [execUnknownControlCommand, if_neg]
    rw [Option.isNone_iff_eq_none, controlCommandOf_eq_none_iff ⟨low, high⟩]
    exact good
  · change execIgnoredWrite port page offset w s = _
    rw [execIgnoredWrite, (ignoresWrites_iff ..).mpr ignored, if_pos rfl, writeAccess_of_takes takes]
    rfl
  · change execIgnoredWrite port page offset w s = _
    rw [execIgnoredWrite, if_neg fun ignored => taken ((ignoresWrites_iff ..).mp ignored)]

end Sys2Proof.Machine

end

/-!
The law of the agents and the law of the bindings: what may become of an agent's context (`Succeeds`); the changes
that keep the frame records (`Steady`) and those that may free a frame (`BindingsKept`); and for each command that it
is such a change, or one that binds anew (R127) or leaves no binding (R125). A binding that is left rests on a frame
that the agent still holds or claims, so the frame is still in use and its generation is the same
(`BindingsKept.keeps_bindingLaw`).
-/

section

-- Taken one after the other, the proofs need one thread (see Tests/Slice0.lean).
set_option Elab.async false

namespace Sys2Proof.Machine

/-! ## Agent contexts -/

section Sound

variable {x y : Agent}

/-- A sound context stays sound when it has no more frames and claims, and keeps its binding or loses it. -/
theorem AgentSound.of_less (h : AgentSound x)
    (count : y.held.length + y.claims.length ≤ x.held.length + x.claims.length)
    (claims : y.claims.length ≤ x.claims.length) (binding : y.binding = none ∨ y.binding = x.binding)
    (state : y.state = x.state := by rfl) (quota : y.quota = x.quota := by rfl)
    (claimLimit : y.claimLimit = x.claimLimit := by rfl) (cause : y.cause = x.cause := by rfl)
    (notices : y.notices = x.notices := by rfl) (lost : y.lost = x.lost := by rfl) : AgentSound y where
  quota_range := quota ▸ h.quota_range
  limit_range := claimLimit ▸ h.limit_range
  within_quota := quota ▸ count.trans h.within_quota
  within_limit := claimLimit ▸ claims.trans h.within_limit
  offline_empty offline := by
    obtain ⟨held, claims⟩ := h.offline_empty (state ▸ offline)
    rw [held, claims] at count
    simpa using count
  leaving other := by
    obtain ⟨unbound, empty, kept⟩ := h.leaving (state ▸ other)
    exact ⟨binding.elim id (·.trans unbound), notices.trans empty, lost.trans kept⟩
  cause_present := by rw [cause, state]; exact h.cause_present
  notices_bounded := notices ▸ h.notices_bounded

/-- A notice offered keeps a context sound (R136). -/
theorem AgentSound.noticed (h : AgentSound x) (n : Notice) : AgentSound (noticed x n) := by
  unfold Machine.noticed
  split
  · rename_i online
    split
    · rename_i room
      have bounded : (x.notices ++ [n]).length ≤ 16 := by
        rw [List.length_append, List.length_singleton]; omega
      exact { h with leaving := fun other => absurd online other, notices_bounded := bounded }
    · exact { h with leaving := fun other => absurd online other }
  · exact h

/-- A frame joins the held list of an agent below its quota (R12, R66). -/
theorem AgentSound.joined (h : AgentSound x) (active : x.state ≠ .offline)
    (below : x.held.length + x.claims.length < x.quota) (f : FrameIdx) :
    AgentSound { x with held := x.held ++ [f] } :=
  have quota : (x.held ++ [f]).length + x.claims.length ≤ x.quota := by
    rw [List.length_append, List.length_singleton]
    omega
  { h with
    within_quota := quota
    offline_empty := fun offline => absurd offline active }

/-- An entry joins the claim list of an agent below its quota and its claim limit (R65, R66). -/
theorem AgentSound.claimed (h : AgentSound x) (active : x.state ≠ .offline)
    (below : x.held.length + x.claims.length < x.quota) (limit : x.claims.length < x.claimLimit) (e : EntryId) :
    AgentSound { x with claims := x.claims ++ [e] } :=
  have count : (x.claims ++ [e]).length = x.claims.length + 1 := by
    rw [List.length_append, List.length_singleton]
  have quota : x.held.length + (x.claims ++ [e]).length ≤ x.quota := by omega
  { h with
    within_quota := quota
    within_limit := count ▸ limit
    offline_empty := fun offline => absurd offline active }

/-- A frame leaves the held list. -/
theorem AgentSound.dropHeld (h : AgentSound x) (f : FrameIdx) {b : Option Word}
    (binding : b = none ∨ b = x.binding) : AgentSound { x with held := x.held.erase f, binding := b } :=
  h.of_less (Nat.add_le_add_right (List.length_erase_le ..) _) le_rfl binding

/-- An entry leaves the claim list. -/
theorem AgentSound.dropClaim (h : AgentSound x) (e : EntryId) {b : Option Word}
    (binding : b = none ∨ b = x.binding) : AgentSound { x with claims := x.claims.erase e, binding := b } :=
  have fewer : (x.claims.erase e).length ≤ x.claims.length := List.length_erase_le ..
  h.of_less (Nat.add_le_add_left fewer _) fewer binding

/-- ATTACH and the end of a retire leave a sound context (R113, R122). -/
theorem AgentSound.cleared (h : AgentSound x) {state : AgentState} (other : state ≠ .retiring) :
    AgentSound (x.cleared state) where
  quota_range := h.quota_range
  limit_range := h.limit_range
  within_quota := Nat.zero_le _
  within_limit := Nat.zero_le _
  offline_empty _ := ⟨rfl, rfl⟩
  leaving _ := ⟨rfl, rfl, rfl⟩
  cause_present := iff_of_false nofun other
  notices_bounded := Nat.zero_le _

/-- RESTART leaves a sound context (R125). -/
theorem AgentSound.restarted (h : AgentSound x) : AgentSound x.restarted :=
  { h.cleared (state := .offline) nofun with }

/-- The beginning of a retire leaves a sound context (R119). -/
theorem AgentSound.retiringFor (h : AgentSound x) (cause : RetireCause) : AgentSound (x.retiringFor cause) :=
  { h with
    offline_empty := nofun
    leaving := fun _ => ⟨rfl, rfl, rfl⟩
    cause_present := iff_of_true rfl rfl
    notices_bounded := Nat.zero_le _ }

end Sound

/-! ## What becomes of an agent context -/

/-- The context `x` holds the frame or has a claim on it (R126). -/
def Attached (s : State) (x : Agent) (f : FrameIdx) : Prop :=
  f ∈ x.held ∨ ∃ e ∈ x.claims, (s.entry e).frame = f

/-- The context `x` of an agent in `s` may become `y` in `t`: sound if it was; and a binding that `y` has, `x` had, to
a frame that stays attached. -/
structure Succeeds (s t : State) (x y : Agent) : Prop where
  sound : AgentSound x → AgentSound y
  bound : AgentSound x → ∀ h, y.binding = some h →
    x.binding = some h ∧ (Attached s x (handleIndex h) → Attached t y (handleIndex h))

/-- An agent context when a frame that it held has left its held list. -/
def withoutHeld (s : State) (a : AgentId) (f : FrameIdx) : Agent :=
  { s.agent a with
    held := (s.agent a).held.erase f
    binding := if boundTo s a f = true then none else (s.agent a).binding }

theorem AgentSound.withoutHeld {s : State} {a : AgentId} (f : FrameIdx) (h : AgentSound (s.agent a)) :
    AgentSound (withoutHeld s a f) :=
  h.dropHeld f <| by
    split
    · exact .inl rfl
    · exact .inr rfl

section Succeeds

variable {s t u : State} {x y z : Agent}

theorem Succeeds.trans (h : Succeeds s t x y) (k : Succeeds t u y z) : Succeeds s u x z where
  sound sound := k.sound (h.sound sound)
  bound sound w bound := by
    obtain ⟨before, stays⟩ := k.bound (h.sound sound) w bound
    obtain ⟨first, stayed⟩ := h.bound sound w before
    exact ⟨first, fun attached => stays (stayed attached)⟩

/-- A context without binding. -/
theorem Succeeds.unbound (sound : AgentSound x → AgentSound y) (none : AgentSound x → y.binding = none) :
    Succeeds s t x y where
  sound := sound
  bound h _ bound := absurd ((none h).symm.trans bound) nofun

/-- A context that keeps its frames, its claims, and its binding if it has one. -/
theorem Succeeds.of_more (entries : ∀ e ∈ x.claims, (t.entry e).frame = (s.entry e).frame)
    (sound : AgentSound x → AgentSound y) (binding : y.binding = x.binding)
    (held : ∀ f ∈ x.held, f ∈ y.held) (claims : ∀ e ∈ x.claims, e ∈ y.claims) : Succeeds s t x y where
  sound := sound
  bound _ _ bound :=
    ⟨binding ▸ bound, Or.imp (held _) fun ⟨e, claimed, frame⟩ =>
      ⟨e, claims e claimed, (entries e claimed).trans frame⟩⟩

/-- A context that keeps every field that the laws speak of. -/
theorem Succeeds.of_fields (entries : ∀ e ∈ x.claims, (t.entry e).frame = (s.entry e).frame)
    (held : y.held = x.held := by rfl) (claims : y.claims = x.claims := by rfl)
    (binding : y.binding = x.binding := by rfl) (state : y.state = x.state := by rfl)
    (quota : y.quota = x.quota := by rfl) (claimLimit : y.claimLimit = x.claimLimit := by rfl)
    (cause : y.cause = x.cause := by rfl) (notices : y.notices = x.notices := by rfl)
    (lost : y.lost = x.lost := by rfl) : Succeeds s t x y :=
  .of_more entries
    (fun h => h.of_less (by rw [held, claims]) (by rw [claims]) (.inr binding) state quota claimLimit cause
      notices lost)
    binding (fun _ => held ▸ id) fun _ => claims ▸ id

theorem Succeeds.refl (s : State) (x : Agent) : Succeeds s s x x := .of_fields fun _ _ => rfl

/-- A frame leaves the held list, and with it a binding to it (R132). -/
theorem Succeeds.leaveHeld {a : AgentId} (f : FrameIdx)
    (entries : ∀ e ∈ (s.agent a).claims, (t.entry e).frame = (s.entry e).frame) :
    Succeeds s t (s.agent a) (withoutHeld s a f) where
  sound := .withoutHeld f
  bound _ w bound := by
    change (if boundTo s a f = true then none else (s.agent a).binding) = some w at bound
    split at bound
    · cases bound
    · rename_i other
      refine ⟨bound, Or.imp (fun held => ?_) fun ⟨e, claimed, frame⟩ =>
        ⟨e, claimed, (entries e claimed).trans frame⟩⟩
      refine (List.mem_erase_of_ne fun same => other ?_).mpr held
      rw [boundTo, bound]
      change (handleIndex w == f) = true
      rw [same]
      exact beq_self_eq_true f

/-- A claim ends, and with it the binding that rests on it alone (R132, R133). -/
theorem Succeeds.withoutClaim {a : AgentId} (e : EntryId)
    (entries : ∀ d ∈ (s.agent a).claims, (t.entry d).frame = (s.entry d).frame) :
    Succeeds s t (s.agent a) (withoutClaim s a e) where
  sound h := h.dropClaim e <| by
    unfold bindingLeft
    split
    · exact .inl rfl
    · exact .inr rfl
  bound _ w bound := by
    change bindingLeft s a e = some w at bound
    unfold bindingLeft at bound
    split at bound
    · cases bound
    · rename_i rests
      refine ⟨bound, Or.imp id fun ⟨d, claimed, frame⟩ => ?_⟩
      by_cases same : d = e
      · subst same
        have named : boundTo s a (s.entry d).frame = true := by
          rw [boundTo, bound, frame]
          change (handleIndex w == handleIndex w) = true
          exact beq_self_eq_true _
        simp only [named, true_and, not_forall, not_not] at rests
        obtain ⟨c, other, shared⟩ := rests
        exact ⟨c, other, (entries c (List.mem_of_mem_erase other)).trans (shared.trans frame)⟩
      · exact ⟨d, (List.mem_erase_of_ne same).mpr claimed, (entries d claimed).trans frame⟩

/-- A claim becomes a hold of its frame, and a binding to it stays (R72). -/
theorem Succeeds.taken {a : AgentId} {e : EntryId} (claimed : e ∈ (s.agent a).claims)
    (entries : ∀ d ∈ (s.agent a).claims, (t.entry d).frame = (s.entry d).frame) :
    Succeeds s t (s.agent a)
      { s.agent a with
        claims := (s.agent a).claims.erase e
        held := (s.agent a).held ++ [(s.entry e).frame] } where
  sound h := by
    have one := List.length_erase_add_one claimed
    refine h.of_less ?_ (by dsimp only; omega) (.inr rfl)
    dsimp only
    rw [List.length_append, List.length_singleton]
    omega
  bound _ w bound := by
    refine ⟨bound, ?_⟩
    rintro (held | ⟨d, claimed, frame⟩)
    · exact .inl (List.mem_append_left _ held)
    · by_cases same : d = e
      · subst same
        exact .inl (List.mem_append_right _ (List.mem_singleton.mpr frame.symm))
      · exact .inr ⟨d, (List.mem_erase_of_ne same).mpr claimed, (entries d claimed).trans frame⟩

end Succeeds

/-! ## Changes that the laws of the agents and of the bindings allow -/

/-- Every agent's context succeeds, and the frame records and the active frame total are the same. -/
structure Steady (s t : State) : Prop where
  agent : ∀ a, Succeeds s t (s.agent a) (t.agent a)
  frames : t.frames = s.frames
  activeTotal : t.activeTotal = s.activeTotal

/-- Every agent's context succeeds, the active frame total is the same, and a frame with another generation is FREE
(R10). -/
structure BindingsKept (s t : State) : Prop where
  agent : ∀ a, Succeeds s t (s.agent a) (t.agent a)
  generation : ∀ f, (t.frame f).generation = (s.frame f).generation ∨ (t.frame f).state = .free
  activeTotal : t.activeTotal = s.activeTotal

/-- One command keeps the law of the agents; and where the other laws hold, that of the bindings. -/
structure AgentChange (s t : State) : Prop where
  agents : AgentLaw s → AgentLaw t
  bindings : ControllerLaw s → AgentLaw s → EntryLaw s → ReferenceLaw s → ReferenceLaw t →
    BindingLaw s → BindingLaw t

section Changes

variable {s t u : State}

theorem Steady.trans (h : Steady s t) (k : Steady t u) : Steady s u where
  agent a := (h.agent a).trans (k.agent a)
  frames := k.frames.trans h.frames
  activeTotal := k.activeTotal.trans h.activeTotal

/-- `Steady.trans` with the last change first. -/
theorem Steady.after (k : Steady t u) (h : Steady s t) : Steady s u := h.trans k

theorem Steady.kept (h : Steady s t) : BindingsKept s t where
  agent := h.agent
  generation f := .inl (by rw [State.frame, h.frames]; rfl)
  activeTotal := h.activeTotal

/-- A steady change after one that frees a frame. -/
theorem BindingsKept.after (k : Steady t u) (h : BindingsKept s t) : BindingsKept s u where
  agent a := (h.agent a).trans (k.agent a)
  generation f := by rw [State.frame, k.frames]; exact h.generation f
  activeTotal := k.activeTotal.trans h.activeTotal

/-- A steady change before one that frees a frame. -/
theorem BindingsKept.before (h : Steady s t) (k : BindingsKept t u) : BindingsKept s u where
  agent a := (h.agent a).trans (k.agent a)
  generation f := by
    have same : t.frame f = s.frame f := congrArg (·.get f) h.frames
    rw [← same]
    exact k.generation f
  activeTotal := k.activeTotal.trans h.activeTotal

/-- An update that leaves the agents, the entries and the frames. -/
theorem Steady.of_records (agents : t.agents = s.agents := by rfl) (entries : t.entries = s.entries := by rfl)
    (frames : t.frames = s.frames := by rfl) (activeTotal : t.activeTotal = s.activeTotal := by rfl) :
    Steady s t where
  agent a := by
    rw [State.agent, State.agent, agents]
    exact .of_fields fun e _ => by rw [State.entry, State.entry, entries]
  frames := frames
  activeTotal := activeTotal

theorem Steady.refl (s : State) : Steady s s := .of_records

/-- An entry's record is replaced, and its frame kept. -/
theorem Steady.setEntry {e : EntryId} {x : Entry} (frame : x.frame = (s.entry e).frame) :
    Steady s (s.setEntry e x) where
  agent a := .of_fields fun d _ => by
    rw [State.setEntry_entry]
    split
    · rename_i same; rw [same, frame]
    · rfl
  frames := rfl
  activeTotal := rfl

/-- The context of one agent is replaced, and the frames and the entries' frames are kept. -/
theorem Steady.of_agent {a : AgentId} {x : Agent} (only : OnlyAgent s t a x)
    (own : Succeeds s t (s.agent a) x) (entries : ∀ e, (t.entry e).frame = (s.entry e).frame)
    (frames : t.frames = s.frames := by rfl) (activeTotal : t.activeTotal = s.activeTotal := by rfl) :
    Steady s t where
  agent b := by
    rw [only]
    split
    · rename_i same; rw [same]; exact own
    · exact .of_fields fun e _ => entries e
  frames := frames
  activeTotal := activeTotal

theorem Steady.setAgent {a : AgentId} {x : Agent} (own : Succeeds s s (s.agent a) x) :
    Steady s (s.setAgent a x) :=
  .of_agent (fun b => State.setAgent_agent s a b x) ⟨own.sound, own.bound⟩ fun _ => rfl

/-- The context of one agent is replaced, and a frame may have become FREE. -/
theorem BindingsKept.of_agent {a : AgentId} {x : Agent} (only : OnlyAgent s t a x)
    (own : Succeeds s t (s.agent a) x)
    (entries : ∀ b ≠ a, ∀ e ∈ (s.agent b).claims, (t.entry e).frame = (s.entry e).frame)
    (generation : ∀ f, (t.frame f).generation = (s.frame f).generation ∨ (t.frame f).state = .free)
    (activeTotal : t.activeTotal = s.activeTotal := by rfl) : BindingsKept s t where
  agent b := by
    rw [only]
    split
    · rename_i same; rw [same]; exact own
    · rename_i other; exact .of_fields (entries b other)
  generation := generation
  activeTotal := activeTotal

/-- The agents and the entries are the same, and a frame may have become FREE. -/
theorem BindingsKept.of_frames
    (generation : ∀ f, (t.frame f).generation = (s.frame f).generation ∨ (t.frame f).state = .free)
    (agents : t.agents = s.agents := by rfl) (entries : t.entries = s.entries := by rfl)
    (activeTotal : t.activeTotal = s.activeTotal := by rfl) : BindingsKept s t where
  agent a := by
    rw [State.agent, State.agent, agents]
    exact .of_fields fun e _ => by rw [State.entry, State.entry, entries]
  generation := generation
  activeTotal := activeTotal

/-! ### The law of the bindings -/

/-- The frame of an entry in use is POSTED (R5). -/
theorem ReferenceLaw.posted_of_live (law : ReferenceLaw s) {e : EntryId} (live : e ∈ liveEntries s) :
    (s.frame (s.entry e).frame).state = .posted := by
  obtain ⟨frames, -⟩ := (referenceLaw_iff s).mp law
  have referred : 0 < refCount [] s (s.entry e).frame := by
    by_contra none
    exact refCount_eq_zero.mp (Nat.eq_zero_of_not_pos none) e live rfl
  exact ((frames.frame _).record.posted referred).1

/-- A frame that an agent holds or has a claim on is HELD or POSTED. -/
theorem Attached.state (law : ReferenceLaw s) {a : AgentId} {f : FrameIdx}
    (attached : Attached s (s.agent a) f) : (s.frame f).state = .held ∨ (s.frame f).state = .posted := by
  rcases attached with held | ⟨e, claimed, rfl⟩
  · exact .inl ((law.held_list a f).mp held).1
  · exact .inr (law.posted_of_live (mem_liveEntries.mpr (.inr ⟨a, claimed⟩)))

/-- A binding left rests on the frame that it rested on, which is still in use: its generation is the same. -/
theorem BindingsKept.keeps_bindingLaw (k : BindingsKept s t) (agents : AgentLaw s) (before : ReferenceLaw s)
    (after : ReferenceLaw t) (law : BindingLaw s) : BindingLaw t := by
  intro a h bound
  obtain ⟨had, stays⟩ := (k.agent a).bound (agents a) h bound
  obtain ⟨⟨wellFormed, inTable, generation, -⟩, own⟩ := law a h had
  have attached := stays (own.imp (before.held_list a _).mpr id)
  have state := attached.state after
  refine ⟨⟨wellFormed, k.activeTotal ▸ inTable, ?_, state⟩, attached.imp (after.held_list a _).mp id⟩
  rcases k.generation (handleIndex h) with same | free
  · rw [same]; exact generation
  · rw [free] at state
    exact absurd state (by simp)

theorem BindingsKept.change (k : BindingsKept s t) : AgentChange s t where
  agents law a := (k.agent a).sound (law a)
  bindings _ agents _ before after := k.keeps_bindingLaw agents before after

theorem Steady.change (h : Steady s t) : AgentChange s t := h.kept.change

/-- A change that leaves no binding. -/
theorem AgentChange.of_unbound (agents : AgentLaw s → AgentLaw t)
    (none : ControllerLaw s → AgentLaw s → ∀ a, (t.agent a).binding = none) : AgentChange s t where
  agents := agents
  bindings controller law _ _ _ _ a _ bound := absurd ((none controller law a).symm.trans bound) nofun

end Changes

end Sys2Proof.Machine

end

section

-- Taken one after the other, the proofs need one thread (see Tests/Slice0.lean).
set_option Elab.async false

namespace Sys2Proof.Machine

/-! ### The shared operations that keep the frame records -/

section Shared

variable (s : State)

theorem Steady.answer (a : AgentId) (c : ResultCode) (k : Action) (w : Word) : Steady s (s.answer a c k w) :=
  .setAgent (.of_fields fun _ _ => rfl)

theorem Steady.returns (p : Port) (w : Word) : Steady s (s.returns p w) := by
  cases p <;> exact .of_records

theorem Steady.setHeldAccesses (p : Port) (l : List HeldAccess) : Steady s (s.setHeldAccesses p l) := by
  cases p <;> exact .of_records

theorem Steady.setResetLine (p : Port) (b : Bool) : Steady s (s.setResetLine p b) := by
  cases p <;> exact .of_records

theorem Steady.controlAnswer (c : ControlCode) (k : ControlSubject) (n : Nat) :
    Steady s (s.controlAnswer c k n) := .of_records

theorem Steady.setQueue (q : QueueId) (x : Queue) : Steady s (s.setQueue q x) := .of_records

/-- A notice changes neither the lists nor the binding of an agent (R136). -/
theorem noticed_kept (x : Agent) (n : Notice) : (noticed x n).held = x.held ∧
    (noticed x n).claims = x.claims ∧ (noticed x n).binding = x.binding := by
  unfold noticed
  split
  · split <;> exact ⟨rfl, rfl, rfl⟩
  · exact ⟨rfl, rfl, rfl⟩

variable {s} in
theorem Succeeds.noticed {t : State} {x : Agent} (n : Notice)
    (entries : ∀ e ∈ x.claims, (t.entry e).frame = (s.entry e).frame) : Succeeds s t x (noticed x n) := by
  obtain ⟨held, claims, binding⟩ := noticed_kept x n
  exact .of_more entries (·.noticed n) binding (fun _ => held ▸ id) fun _ => claims ▸ id

theorem Steady.offerNotice (a : AgentId) (n : Notice) : Steady s (offerNotice a n s) := by
  rw [offerNotice_eq]
  exact .setAgent (.noticed n fun _ _ => rfl)

theorem Steady.offerEvent (e : SupervisorEvent) : Steady s (offerEvent e s) := by
  rw [offerEvent_eq]
  exact .of_records

theorem Steady.report (r : Option Requester) (n : Notice) (e : SupervisorEvent) :
    Steady s (report r n e s) := by
  rcases r with _ | ⟨a⟩ | _
  · exact .refl s
  · exact .offerNotice s a n
  · exact .offerEvent s e

theorem Steady.drainCompletion (q : QueueId) : Steady s (drainCompletion q s) := by
  rw [drainCompletion_eq]
  split
  · exact .after (.report ..) (.setQueue ..)
  · exact .refl s

theorem Steady.lowWaterTest (p : PoolId) : Steady s (lowWaterTest p s) := by
  unfold Machine.lowWaterTest
  dsimp only
  split
  · exact .after (.offerEvent ..) .of_records
  · exact .refl s

theorem Steady.leaveDeadlines (e : EntryId) : Steady s (leaveDeadlines e s) :=
  have untimed : Steady s (s.setEntry e { s.entry e with deadline := none }) := .setEntry rfl
  untimed.trans .of_records

theorem Steady.freeEntry (e : EntryId) : Steady s (freeEntry e s) :=
  have free : Steady s (s.setEntry e { s.entry e with place := .free }) := .setEntry rfl
  free.trans .of_records

theorem Steady.returnEntry (e : EntryId) (n : Nat) : Steady s (returnEntry e n s) :=
  .after (.setQueue ..) (.setEntry rfl)

theorem Steady.moveEntry (e : EntryId) (d : QueueId) : Steady s (moveEntry e d s) :=
  .after (.drainCompletion ..) (.after (.offerNotice ..) (.after (.setQueue ..) (.setEntry rfl)))

/-- The beginning of a retire unbinds the agent (R119). -/
theorem Steady.beginRetire (a : AgentId) (c : RetireCause) : Steady s (beginRetire a c s) :=
  have retiring : Steady s (s.setAgent a ((s.agent a).retiringFor c)) :=
    .setAgent (.unbound (·.retiringFor c) fun _ => rfl)
  retiring.trans .of_records

theorem Steady.plainRead (p : Port) (x : Place) : Steady s (plainRead p x s) := by
  unfold Machine.plainRead
  split
  · exact .setHeldAccesses ..
  · exact .returns ..

theorem Steady.clockPeriod : Steady s (clockPeriod s) := by
  unfold Machine.clockPeriod
  split
  · split <;> exact .of_records
  · exact .refl s

variable {s} in
/-- A claim has ended, and the agent's context is left (R70, R85). -/
theorem Steady.claimEnded {a : AgentId} {x : Agent} {e : EntryId}
    (own : ∀ t, (∀ d, (t.entry d).frame = (s.entry d).frame) → Succeeds s t (s.agent a) x) :
    Steady s (claimEnded s a x e) :=
  have frames (d : EntryId) := (claimEnded_entry_kept s a x e d).2
  .of_agent (claimEnded_agent s a x e) (own _ frames) frames

end Shared

/-! ### The shared operations that free a frame -/

section Frees

variable {s : State}

/-- One frame's record is replaced by one with the same generation, or by a FREE one. -/
theorem generation_of_onlyFrame {t : State} {f : FrameIdx} {x : Frame} (only : OnlyFrame s t f x)
    (own : x.generation = (s.frame f).generation ∨ x.state = .free) (g : FrameIdx) :
    (t.frame g).generation = (s.frame g).generation ∨ (t.frame g).state = .free := by
  rw [only g]
  split
  · rename_i same; rw [same]; exact own
  · exact .inl rfl

/-- On the free path a frame keeps its generation, or becomes FREE with the next (R10, R15). -/
theorem TakesFreePath.generation {t : State} {f : FrameIdx} {x : Frame} (h : TakesFreePath s t f x)
    (same : x.generation = (s.frame f).generation) (g : FrameIdx) :
    (t.frame g).generation = (s.frame g).generation ∨ (t.frame g).state = .free := by
  unfold TakesFreePath at h
  split at h
  · exact generation_of_onlyFrame h.1 (.inl same) g
  · exact generation_of_onlyFrame h.1 (.inr rfl) g

theorem ReferenceDropped.generation {t : State} {f : FrameIdx} (h : ReferenceDropped s t f) (g : FrameIdx) :
    (t.frame g).generation = (s.frame g).generation ∨ (t.frame g).state = .free := by
  unfold ReferenceDropped at h
  split at h
  · exact TakesFreePath.generation h rfl g
  · exact generation_of_onlyFrame h.1 (.inl rfl) g

/-- One entry's record is replaced by one of the same frame. -/
theorem frame_of_onlyEntry {t : State} {e : EntryId} {x : Entry} (only : OnlyEntry s t e x)
    (own : x.frame = (s.entry e).frame) (d : EntryId) : (t.entry d).frame = (s.entry d).frame := by
  rw [only d]
  split
  · rename_i same; rw [same]; exact own
  · rfl

theorem dropReference_entries (f : FrameIdx) (s : State) : (dropReference f s).entries = s.entries :=
  have same := congrArg State.entries (referenceDropped f s).2
  same

variable (s)

theorem BindingsKept.dropReference (f : FrameIdx) : BindingsKept s (dropReference f s) :=
  .of_frames (referenceDropped f s).1.generation (dropReference_agents f s) (dropReference_entries f s)
    (Traffic.dropReference f s).activeTotal

theorem BindingsKept.dropIntoFlush (e : EntryId) : BindingsKept s (dropIntoFlush e s) :=
  .before (.after (.setQueue ..) (.freeEntry s e)) (.dropReference ..)

theorem BindingsKept.dropWithNotice (e : EntryId) : BindingsKept s (dropWithNotice e s) :=
  .after (.drainCompletion ..) (.after (.offerNotice ..)
    (.before (.after (.setQueue ..) (.freeEntry s e)) (.dropReference ..)))

/-- Whatever the redelivery path does with an entry (R86). -/
theorem BindingsKept.redeliver (e : EntryId) (r : ReturnReason) : BindingsKept s (redeliver e r s) := by
  have dead : BindingsKept s (deadLetterPath e s) := by
    unfold deadLetterPath
    split
    · exact (Steady.moveEntry ..).kept
    · exact .dropWithNotice ..
  have returned (n : Nat) : BindingsKept s (returnEntry e n s) := (Steady.returnEntry ..).kept
  unfold Machine.redeliver
  split
  · exact .dropIntoFlush ..
  · exact .dropWithNotice ..
  · exact .dropWithNotice ..
  all_goals
    split
    · exact returned _
    all_goals
      split
      · exact returned _
      · exact dead

/-- A held frame is given back: it leaves the agent's held list and goes down the free path (R14). -/
theorem giveBack_taken (a : AgentId) (f : FrameIdx) :
    TakesFreePath s (giveBack a f s) f { s.frame f with refs := 0, holder := none } ∧
      { giveBack a f s with
        frames := s.frames, freeLists := s.freeLists, scrubList := s.scrubList, pools := s.pools } =
        leaveHeld a f s := by
  obtain ⟨path, rest⟩ := takesFreePath f { s.frame f with refs := 0, holder := none } (leaveHeld a f s)
  exact ⟨path, rest⟩

end Frees

end Sys2Proof.Machine

end

section

-- Taken one after the other, the proofs need one thread (see Tests/Slice0.lean).
set_option Elab.async false

namespace Sys2Proof.Machine

/-! ## The commands of the ports -/

/-- An access is held, completes in INIT, or runs. -/
theorem takeAccess_agentChange {p : Port} {c : HeldAccess} {inInit : State → State} {run : State → Out}
    {s t : State} (h : takeAccess p c inInit run s = .next t) (init : Steady s (inInit s))
    (runs : PortTakes s p → run s = .next t → AgentChange s t) : AgentChange s t := by
  rcases takeAccess_cases h with ⟨-, e⟩ | ⟨-, -, e⟩ | ⟨takes, e⟩
  · cases e; exact (Steady.setHeldAccesses ..).change
  · cases e; exact init.change
  · exact runs takes e.symm

theorem readAccess_agentChange {p : Port} {c : Instr} {run : State → State} {s t : State}
    (h : readAccess p c run s = .next t) (runs : PortTakes s p → AgentChange s (run s)) : AgentChange s t :=
  takeAccess_agentChange h (.returns ..) fun takes e => by cases e; exact runs takes

theorem writeAccess_agentChange {p : Port} {c : Instr} {run : State → State} {s t : State}
    (h : writeAccess p c run s = .next t) (runs : PortTakes s p → AgentChange s (run s)) : AgentChange s t :=
  takeAccess_agentChange h (.refl s) fun takes e => by cases e; exact runs takes

/-! ### Frames -/

section Frames

variable {s : State} {a : AgentId}

theorem belowQuota_of_atQuota (h : atQuota s a = false) : BelowQuota s a := by
  rw [atQuota, decide_eq_false_iff_not] at h
  omega

theorem belowLimit_of_atClaimLimit (h : atClaimLimit s a = false) :
    (s.agent a).claims.length < (s.agent a).claimLimit := by
  rw [atClaimLimit, decide_eq_false_iff_not] at h
  omega

/-- A free frame joins the held list of an agent below its quota, at the generation that it has (R12). -/
theorem BindingsKept.allocFrame (active : (s.agent a).state ≠ .offline) (below : BelowQuota s a)
    (f : FrameIdx) : BindingsKept s (allocFrame a f s) :=
  have own : Succeeds s (Machine.allocFrame a f s) (s.agent a)
      { s.agent a with held := (s.agent a).held ++ [f] } :=
    .of_more (fun _ _ => rfl) (fun sound => sound.joined active below f) rfl
      (fun _ => List.mem_append_left _) fun _ => id
  .of_agent (allocFrame_agent a · f s) own (fun _ _ _ _ => rfl)
    (generation_of_onlyFrame (allocFrame_frame a f · s) (.inl rfl))

theorem execAlloc_agentChange {p : PoolId} {t : State} (h : execAlloc a p s = .next t) : AgentChange s t := by
  refine readAccess_agentChange h fun _ => ?_
  split
  · rename_i f rest refusal _
    simp only [allocRefusal, firstRefusal_eq_none_iff, List.forall_mem_cons, refuseIf_eq_none_iff] at refusal
    obtain ⟨passes, quota, -⟩ := refusal
    have popped : Steady s (s.setFreeList p rest) := .of_records
    have held := BindingsKept.allocFrame (s := s.setFreeList p rest) (active_of_prefix passes)
      (belowQuota_of_atQuota quota) f
    exact ((held.before popped).after ((Steady.lowWaterTest ..).trans
      ((Steady.answer ..).trans (.returns ..)))).change
  · exact ((Steady.answer ..).trans (.returns ..)).change

/-- A frame leaves the held list of the agent, and its binding, in any state with the held list without it. -/
theorem unbind_agent {t : State} {f : FrameIdx} (agents : t.agents = (leaveHeld a f s).agents) :
    OnlyAgent s (unbind a f t) a (withoutHeld s a f) := by
  have agent (b : AgentId) : t.agent b = (leaveHeld a f s).agent b := congrArg (·.get b) agents
  have own : t.agent a = { s.agent a with held := (s.agent a).held.erase f } := by
    rw [agent, leaveHeld, State.setAgent_agent_self]
  intro b
  rw [unbind_eq, State.setAgent_agent, boundTo_congr (s := s) (by rw [own]), own]
  split
  · rfl
  · rename_i other
    rw [agent, leaveHeld, State.setAgent_agent, if_neg other]

theorem unbind_records (a : AgentId) (f : FrameIdx) (s : State) : (unbind a f s).frames = s.frames ∧
    (unbind a f s).entries = s.entries ∧ (unbind a f s).activeTotal = s.activeTotal := by
  rw [unbind_eq]
  exact ⟨rfl, rfl, rfl⟩

theorem giveBack_agents (a : AgentId) (f : FrameIdx) (s : State) :
    (giveBack a f s).agents = (leaveHeld a f s).agents := by
  have same := congrArg State.agents (giveBack_taken s a f).2
  exact same

theorem giveBack_entries (a : AgentId) (f : FrameIdx) (s : State) :
    (giveBack a f s).entries = s.entries := by
  have same := congrArg State.entries (giveBack_taken s a f).2
  exact same

/-- A frame that is given back goes with its binding (R14, R132). -/
theorem BindingsKept.free (a : AgentId) (f : FrameIdx) (s : State) :
    BindingsKept s (unbind a f (giveBack a f s)) := by
  obtain ⟨frames, entries, activeTotal⟩ := unbind_records a f (Machine.giveBack a f s)
  have kept (e : EntryId) : ((unbind a f (Machine.giveBack a f s)).entry e).frame = (s.entry e).frame := by
    rw [State.entry, entries, giveBack_entries]
    rfl
  refine .of_agent (unbind_agent (giveBack_agents a f s)) (.leaveHeld f fun e _ => kept e)
    (fun _ _ e _ => kept e) (fun g => ?_) (activeTotal.trans (Traffic.giveBack a f s).activeTotal)
  rw [State.frame, frames]
  exact (giveBack_taken s a f).1.generation rfl g

theorem execFree_agentChange {w : Word} {t : State} (h : execFree a w s = .next t) : AgentChange s t := by
  refine writeAccess_agentChange h fun _ => ?_
  split
  · exact (Steady.answer ..).change
  · exact (BindingsKept.after (.answer ..) (.free ..)).change

/-! ### Posting -/

/-- A post writes no record of an entry that was not free (R54). -/
theorem createEntries_entry (f : FrameIdx) (urgent : Bool) (e : EntryId) : ∀ (qs : List QueueId) (s : State),
    e ∉ s.freeEntries →
      (qs.foldl (fun s q => createEntry f urgent q s) s).entry e = s.entry e
  | [], _, _ => rfl
  | q :: qs, s, used => by
    rw [List.foldl_cons]
    cases free : s.freeEntries with
    | nil =>
      have none : createEntry f urgent q s = s := by rw [createEntry, free]
      rw [none]
      exact createEntries_entry f urgent e qs s used
    | cons d rest =>
      rw [free, List.mem_cons, not_or] at used
      obtain ⟨other, used⟩ := used
      rw [createEntry_cons f urgent q s d rest free, createEntries_entry f urgent e qs _ used]
      exact Table.get_set_ne _ _ other

/-- No claim is a free entry (R63). -/
theorem EntryLaw.claimed_not_free (law : EntryLaw s) {e : EntryId} (claimed : e ∈ (s.agent a).claims) :
    e ∉ s.freeEntries := fun free => by
  have place := (law.claimed_place a e claimed).1
  rw [(law.free_place e free).1] at place
  cases place

/-- One agent's context is replaced. -/
theorem AgentLaw.of_agent {t : State} {x : Agent} (law : AgentLaw s) (only : OnlyAgent s t a x)
    (own : AgentSound (s.agent a) → AgentSound x) : AgentLaw t := by
  intro b
  rw [only]
  split
  · exact own (law a)
  · exact law b

/-- A frame that is posted goes with its binding (R53, R132), and the entries of the post are no claims. -/
theorem AgentChange.posted {t : State} {f : FrameIdx} {x : Frame} {r : LastResult}
    (agent : OnlyAgent s t a { withoutHeld s a f with last := r }) (frame : OnlyFrame s t f x)
    (same : x.generation = (s.frame f).generation)
    (entries : ∀ e, e ∉ s.freeEntries → t.entry e = s.entry e) (activeTotal : t.activeTotal = s.activeTotal) :
    AgentChange s t where
  agents law := law.of_agent agent fun sound => { sound.withoutHeld f with }
  bindings _ agents law before after binding := by
    have kept (b : AgentId) (e : EntryId) (claimed : e ∈ (s.agent b).claims) :
        (t.entry e).frame = (s.entry e).frame := by rw [entries e (law.claimed_not_free claimed)]
    have left : Succeeds s t (s.agent a) (withoutHeld s a f) := .leaveHeld f (kept a)
    have posted : BindingsKept s t := .of_agent agent (left.trans (.of_fields fun _ _ => rfl))
      (fun b _ => kept b) (generation_of_onlyFrame frame (.inl same)) activeTotal
    exact posted.keeps_bindingLaw agents before after binding

theorem postFrame_agentChange (a : AgentId) (f : FrameIdx) (qs : List QueueId) (k : Action) (w : Word)
    (s : State) : AgentChange s ((postFrame a f qs s).answer a .ok k w) := by
  rw [postFrame_answer]
  exact .posted (fun _ => Table.get_set ..) (fun _ => Table.get_set ..) rfl
    (createEntries_entry f _ · qs s) (Traffic.createEntries f _ qs s).activeTotal

theorem postWrite_agentChange (a : AgentId) (w : Word) (s : State) : AgentChange s (postWrite a w s) := by
  unfold postWrite
  split
  · exact (Steady.answer ..).change
  · exact postFrame_agentChange ..

theorem execReply_agentChange {w : Word} {t : State} (h : execReply a w s = .next t) : AgentChange s t := by
  refine writeAccess_agentChange h fun _ => ?_
  dsimp only
  split
  · exact (Steady.answer ..).change
  · exact postFrame_agentChange ..

end Frames

/-! ### Receiving -/

section Claims

variable {s : State} {a : AgentId}

/-- The front entry of a queue joins the claim list of an agent below its limits (R65, R66). -/
theorem Steady.acceptReceive (active : (s.agent a).state ≠ .offline) (below : BelowQuota s a)
    (limit : (s.agent a).claims.length < (s.agent a).claimLimit) (q : QueueId) (e : EntryId) (k : Action) :
    Steady s (acceptReceive a q e k s) := by
  have kept (d : EntryId) : ((Machine.acceptReceive a q e k s).entry d).frame = (s.entry d).frame := by
    have entry : (Machine.acceptReceive a q e k s).entry d =
        if d = e then claimRecord s a q e else s.entry d := by
      rw [acceptReceive_eq, State.returns_entry]
      exact Table.get_set ..
    rw [entry]
    split
    · rename_i same; rw [same]; rfl
    · rfl
  refine .of_agent (acceptReceive_agent a · q e k s) ?_ kept ?_ ?_
  · exact .of_more (fun d _ => kept d) (fun sound => { sound.claimed active below limit e with }) rfl
      (fun _ => id) fun _ => List.mem_append_left _
  · rw [acceptReceive_eq, State.returns_frames]; rfl
  · rw [acceptReceive_eq, State.returns_activeTotal]; rfl

theorem Steady.refuseReceive (a : AgentId) (c : ResultCode) (k : Action) (w : Word) (s : State) :
    Steady s (refuseReceive a c k w s) := (Steady.answer ..).trans (.returns ..)

theorem execReceive_agentChange {q : QueueId} {t : State} (h : execReceive a q s = .next t) :
    AgentChange s t := by
  refine readAccess_agentChange h fun _ => Steady.change ?_
  split
  · rename_i refusal front
    simp only [receiveRefusal, firstRefusal_eq_none_iff, List.forall_mem_cons, refuseIf_eq_none_iff] at refusal
    obtain ⟨passes, -, -, -, quota, limit, -⟩ := refusal
    exact .acceptReceive (active_of_prefix passes) (belowQuota_of_atQuota quota)
      (belowLimit_of_atClaimLimit limit) ..
  · exact .refuseReceive ..

theorem execReceiveAny_agentChange {t : State} (h : execReceiveAny a s = .next t) : AgentChange s t := by
  refine readAccess_agentChange h fun _ => Steady.change ?_
  split
  · rename_i q refusal _
    simp only [receiveAnyRefusal, firstRefusal_eq_none_iff, List.forall_mem_cons, refuseIf_eq_none_iff]
      at refusal
    obtain ⟨passes, quota, limit, -⟩ := refusal
    split
    · have pointed : Steady s (s.setAgent a { s.agent a with rotation := q }) :=
        .setAgent (.of_fields fun _ _ => rfl)
      refine pointed.trans (.acceptReceive ?_ ?_ ?_ ..)
      all_goals
        simp only [BelowQuota, State.setAgent_agent_self]
      · exact active_of_prefix passes
      · exact belowQuota_of_atQuota quota
      · exact belowLimit_of_atClaimLimit limit
    · exact .refuseReceive ..
  · exact .refuseReceive ..

/-! ### The ends of a claim -/

/-- A completed claim goes with the binding that rests on it alone (R71, R132). -/
theorem BindingsKept.completeClaim (a : AgentId) (e : EntryId) (s : State) :
    BindingsKept s (completeClaim a e s) := by
  rw [completeClaim_eq]
  refine .after (.drainCompletion ..) ?_
  have kept := claimDropped_entry_frame s a e
  exact .of_agent (completed_claimDropped s a _ e).1 (.withoutClaim e fun d _ => kept d)
    (fun _ _ d _ => kept d) (referenceDropped _ (claimFreed ..)).1.generation
    (Traffic.dropReference _ (claimFreed ..)).activeTotal

theorem execComplete_agentChange {w : Word} {t : State} (h : execComplete a w s = .next t) :
    AgentChange s t := by
  refine writeAccess_agentChange h fun _ => ?_
  split
  · exact (BindingsKept.after (.answer ..) (.completeClaim ..)).change
  · exact (Steady.answer ..).change

/-- A claim that is taken leaves its binding on the hold (R72). -/
theorem BindingsKept.takeClaim {e : EntryId} (claimed : e ∈ (s.agent a).claims) :
    BindingsKept s (takeClaim a e s) := by
  rw [takeClaim_eq]
  refine .after (.drainCompletion ..) ?_
  have taken := taken_claimFreed s a
    { s.agent a with
      claims := (s.agent a).claims.erase e
      held := (s.agent a).held ++ [(s.entry e).frame] } { s.agent a with claims := (s.agent a).claims.erase e } e
  obtain ⟨agent, frame, entry, -⟩ := taken
  have kept (d : EntryId) := frame_of_onlyEntry entry rfl d
  exact .of_agent agent (.taken claimed fun d _ => kept d) (fun _ _ d _ => kept d)
    (generation_of_onlyFrame frame (.inl rfl))

theorem execTake_agentChange {w : Word} {t : State} (h : execTake a w s = .next t) : AgentChange s t := by
  refine writeAccess_agentChange h fun _ => ?_
  split
  · rename_i claims
    exact (BindingsKept.after (.answer ..) (.takeClaim (mem_of_claimsOn claims).1)).change
  · exact (Steady.answer ..).change

/-- A claim that is released or expires goes with the binding that rests on it alone (R73, R85, R132). -/
theorem BindingsKept.releaseClaim (a : AgentId) (e : EntryId) (s : State) :
    BindingsKept s (releaseClaim a e s) := by
  unfold Machine.releaseClaim
  rw [unbindWithoutClaim_endClaim]
  exact .before (.claimEnded fun _ kept => .withoutClaim e fun d _ => kept d) (.redeliver ..)

theorem execRelease_agentChange {w : Word} {t : State} (h : execRelease a w s = .next t) :
    AgentChange s t := by
  refine writeAccess_agentChange h fun _ => ?_
  split
  · exact (BindingsKept.after (.answer ..) (.releaseClaim ..)).change
  · exact (Steady.answer ..).change

theorem execClaimExpiry_agentChange {t : State} (h : execClaimExpiry s = .next t) : AgentChange s t := by
  cases front : s.handedOver with
  | nil =>
    simp only [execClaimExpiry, front] at h
    cases h
    exact (Steady.refl s).change
  | cons e rest =>
    cases claimant : (s.entry e).claimant with
    | none =>
      simp only [execClaimExpiry, front, claimant] at h
      cases h
      exact (Steady.leaveDeadlines ..).change
    | some a =>
      cases h.symm.trans (exec_claimExpiry front claimant)
      refine (BindingsKept.before (.claimEnded fun t kept => ?_) (.redeliver ..)).change
      have ended : Succeeds s t (s.agent a) (withoutClaim s a e) := .withoutClaim e fun d _ => kept d
      exact ended.trans (.noticed _ fun _ _ => rfl)

/-- The claims of an agent that retires end without regard to its binding: it has none (R119, R120). -/
theorem execRetireClaimStep_agentChange {t : State} (h : execRetireClaimStep a s = .next t) :
    AgentChange s t := by
  unfold execRetireClaimStep at h
  split at h
  · rename_i retiring
    split at h
    · rename_i e _
      cases h
      have ended : Steady s (endClaim a e s) := by
        rw [endClaim_eq_claimEnded]
        exact .claimEnded fun _ _ => .unbound (·.dropClaim e (.inr rfl)) fun sound =>
          (sound.leaving (by rw [retiring]; exact nofun)).1
      have goesOn : BindingsKept s (redeliver e .retired (endClaim a e s)) := .before ended (.redeliver ..)
      unfold retireClaim
      refine (goesOn.after (.setAgent ?_)).change
      split <;> exact .of_fields fun _ _ => rfl
    · cases h; exact (Steady.refl s).change
  · cases h; exact (Steady.refl s).change

end Claims

end Sys2Proof.Machine

end

section

-- Taken one after the other, the proofs need one thread (see Tests/Slice0.lean).
set_option Elab.async false

namespace Sys2Proof.Machine

/-! ### Agents -/

section Agents

variable {s : State} {a : AgentId}

theorem execAttach_agentChange {t : State} (h : execAttach a s = .next t) : AgentChange s t := by
  refine writeAccess_agentChange h fun _ => Steady.change ?_
  split
  · exact .answer ..
  · have attached : Steady s (s.setAgent a ((s.agent a).cleared .online)) :=
      .setAgent (.unbound (·.cleared nofun) fun _ => rfl)
    exact attached.trans (.answer ..)

theorem execDetach_agentChange {t : State} (h : execDetach a s = .next t) : AgentChange s t := by
  refine writeAccess_agentChange h fun _ => Steady.change ?_
  split
  · exact .answer ..
  · exact .after (.answer ..) (.beginRetire ..)

theorem execRetire_agentChange {t : State} (h : execRetire a s = .next t) : AgentChange s t := by
  refine writeAccess_agentChange h fun _ => Steady.change ?_
  split
  · exact .after (.controlAnswer ..) (.beginRetire ..)
  · exact .controlAnswer ..

/-- The frames of an agent that is not ONLINE are given back without regard to its binding: it has none (R119,
R121). -/
theorem BindingsKept.giveBack (leaving : (s.agent a).state ≠ .online) (f : FrameIdx) :
    BindingsKept s (giveBack a f s) := by
  have only : OnlyAgent s (Machine.giveBack a f s) a { s.agent a with held := (s.agent a).held.erase f } := by
    intro b
    rw [State.agent, giveBack_agents]
    exact Table.get_set ..
  have kept (e : EntryId) : ((Machine.giveBack a f s).entry e).frame = (s.entry e).frame := by
    rw [State.entry, giveBack_entries]
    rfl
  exact .of_agent only (.unbound (·.dropHeld f (.inr rfl)) fun sound => (sound.leaving leaving).1)
    (fun _ _ e _ => kept e) ((giveBack_taken s a f).1.generation rfl) (Traffic.giveBack a f s).activeTotal

theorem execRetireFreeStep_agentChange {t : State} (h : execRetireFreeStep a s = .next t) :
    AgentChange s t := by
  unfold execRetireFreeStep at h
  split at h
  · rename_i retiring
    have leaving : (s.agent a).state ≠ .online := by rw [retiring.1]; exact nofun
    split at h
    · rename_i f _ _
      cases h
      unfold retireFree
      exact ((BindingsKept.giveBack leaving f).after (.setAgent (.of_fields fun _ _ => rfl))).change
    · cases h
      rw [endRetire_eq]
      have ended : Steady s (s.setAgent a ((s.agent a).cleared .offline)) :=
        .setAgent (.unbound (·.cleared nofun) fun _ => rfl)
      exact (ended.trans (.offerEvent ..)).change
  · cases h; exact (Steady.refl s).change

theorem execUnknownAgentCommand_agentChange {code : Byte} {t : State}
    (h : execUnknownAgentCommand a code s = .next t) : AgentChange s t := by
  unfold execUnknownAgentCommand at h
  split at h
  · exact writeAccess_agentChange h fun _ => (Steady.answer ..).change
  · cases h

theorem Steady.stagingWrite (a : AgentId) (change : Staging → Staging) (s : State) :
    Steady s (stagingWrite a change s) := by
  unfold Machine.stagingWrite
  dsimp only
  split
  · exact .setAgent (.of_fields fun _ _ => rfl)
  · exact .refl s

theorem execInterruptEnable_agentChange {w : Word} {t : State} (h : execInterruptEnable a w s = .next t) :
    AgentChange s t := by
  refine writeAccess_agentChange h fun _ => Steady.change ?_
  dsimp only
  split
  · exact .setAgent (.of_fields fun _ _ => rfl)
  · exact .refl s

/-- A notice that is read leaves the list; the read of an empty list clears the lost flag (R139). -/
theorem execNotice_agentChange {t : State} (h : execNotice a s = .next t) : AgentChange s t := by
  refine readAccess_agentChange h fun _ => Steady.change ?_
  dsimp only
  split
  · rename_i online
    have noted {l : List Notice} (lost : Bool) (w : Word) (fewer : l.length ≤ (s.agent a).notices.length) :
        Steady s (s.setAgent a { s.agent a with notices := l, lost := lost, noticeDetail := w }) :=
      .setAgent (.of_more (fun _ _ => rfl)
        (fun sound =>
          { sound with
            leaving := fun other => absurd online other
            notices_bounded := fewer.trans sound.notices_bounded })
        rfl (fun _ => id) fun _ => id)
    split
    · rename_i n rest notices
      exact .after (.returns ..) (noted (s.agent a).lost _ (by rw [notices]; exact Nat.le_succ _))
    · exact .after (.returns ..) (noted false _ le_rfl)
  · exact .returns ..

/-! ### The aperture -/

/-- A handle that passes the handle check names a frame (R9). -/
theorem namesFrame_of_handleCheck {w : Word} (passes : handleCheck s w = none) : NamesFrame s w := by
  simp only [handleCheck, firstRefusal_eq_none_iff, List.forall_mem_cons, refuseIf_eq_none_iff,
    Bool.or_eq_false_iff, Bool.not_eq_false', decide_eq_false_iff_not, not_le, bne_eq_false_iff_eq,
    beq_eq_false_iff_ne] at passes
  obtain ⟨⟨wellFormed, inTable⟩, ⟨⟨generation, free⟩, scrub⟩, -⟩ := passes
  refine ⟨wellFormed, inTable, generation, ?_⟩
  cases state : (s.frame (handleIndex w)).state with
  | free => exact absurd state free
  | scrub => exact absurd state scrub
  | held => exact .inl rfl
  | posted => exact .inr rfl

/-- What the law of the bindings says of the handle that an agent is bound to (R126). -/
def MayBind (s : State) (a : AgentId) (w : Word) : Prop :=
  NamesFrame s w ∧
    ((s.frame (handleIndex w)).state = .held ∧ (s.frame (handleIndex w)).holder = some a ∨
      ∃ e ∈ (s.agent a).claims, (s.entry e).frame = handleIndex w)

theorem bindingLaw_iff (s : State) :
    BindingLaw s ↔ ∀ a, ∀ w ∈ (s.agent a).binding, MayBind s a w := Iff.rfl

theorem mayBind_of_bindRefusal {w : Word} (passes : bindRefusal s a w = none) : MayBind s a w := by
  simp only [bindRefusal, firstRefusal_eq_none_iff, List.forall_mem_cons, refuseIf_eq_none_iff] at passes
  obtain ⟨-, names, owns, -⟩ := passes
  refine ⟨namesFrame_of_handleCheck names, ?_⟩
  rw [← holds_iff]
  by_contra other
  rw [not_or] at other
  obtain ⟨notHeld, notClaimed⟩ := other
  have unclaimed := (claimsOn_isEmpty_iff s a (handleIndex w)).mpr fun e claimed frame =>
    notClaimed ⟨e, claimed, frame⟩
  simp [notHeld, unclaimed] at owns

/-- An ONLINE agent is bound anew, or unbound, and answered (R127). -/
theorem AgentChange.rebound {b : Option Word} (online : (s.agent a).state = .online)
    (may : ∀ w ∈ b, MayBind s a w) (k : Action) (w : Word) :
    AgentChange s ((setBinding a b s).answer a .ok k w) := by
  rw [setBinding, State.setAgent_answer]
  refine ⟨fun law => law.of_agent (State.setAgent_agent s a · _) fun sound =>
    { sound with leaving := fun other => absurd online other }, ?_⟩
  intro _ _ _ _ _ law
  rw [bindingLaw_iff] at law ⊢
  intro c v bound
  rw [State.setAgent_agent] at bound
  rw [MayBind, State.setAgent_agent]
  split at bound
  · rename_i own
    subst own
    rw [if_pos rfl]
    exact may v bound
  · rename_i other
    rw [if_neg other]
    exact law c v bound

theorem execBindWrite_agentChange {w : Word} {t : State} (h : execBindWrite a w s = .next t) :
    AgentChange s t := by
  refine writeAccess_agentChange h fun _ => ?_
  dsimp only
  split
  · exact (Steady.answer ..).change
  · rename_i passes
    split at passes
    · rename_i null
      rw [if_pos null]
      exact .rebound (online_of_prefix passes) (fun _ none => by cases none) ..
    · rename_i handle
      rw [if_neg handle]
      have common := passes
      simp only [bindRefusal, firstRefusal_eq_none_iff, List.forall_mem_cons] at common
      exact .rebound (online_of_prefix common.1) (fun _ own => by cases own; exact mayBind_of_bindRefusal passes) ..

theorem execBindRead_agentChange {t : State} (h : execBindRead a s = .next t) : AgentChange s t := by
  refine readAccess_agentChange h fun _ => Steady.change ?_
  split
  · exact .after (.returns ..) (.answer ..)
  · exact .after (.returns ..) (.answer ..)

theorem execApertureRead_agentChange {m : BitVec 9} {lanes : BitVec 4} {t : State}
    (h : execApertureRead a m lanes s = .next t) : AgentChange s t := by
  refine takeAccess_agentChange h (.returns ..) fun _ h => Steady.change ?_
  dsimp only at h
  split at h
  · cases h; exact .after (.returns ..) (.answer ..)
  · split at h
    · cases h; exact .returns ..
    · cases h

theorem execApertureWrite_agentChange {m : BitVec 9} {lanes : BitVec 4} {w : Word} {t : State}
    (h : execApertureWrite a m lanes w s = .next t) : AgentChange s t := by
  refine takeAccess_agentChange h (.refl s) fun _ h => Steady.change ?_
  dsimp only at h
  split at h
  · cases h; exact .answer ..
  · split at h
    · cases h; exact .of_records
    · cases h

end Agents

end Sys2Proof.Machine

end

section

-- Taken one after the other, the proofs need one thread (see Tests/Slice0.lean).
set_option Elab.async false

namespace Sys2Proof.Machine

/-! ### The control page -/

section Control

variable {s : State}

/-- A configuration write is the change of its register, if it is not refused, or nothing but the result record. -/
theorem configure_steady {offset n : Nat} {refusal : Option ControlCode} {change : Option State}
    (h : refusal = none → ∀ t ∈ change, Steady s t) : Steady s (configure offset n refusal change s) := by
  unfold configure
  dsimp only
  split
  · exact .controlAnswer ..
  · exact .controlAnswer ..
  · exact .after (.controlAnswer ..) (h rfl _ rfl)

/-- The same, for a register whose value decides the change. -/
theorem configure_map_steady {α : Type} {offset n : Nat} {refusal : Option ControlCode} {value : Option α}
    {change : α → State} (h : ∀ x, Steady s (change x)) :
    Steady s (configure offset n refusal (value.map change) s) :=
  configure_steady fun _ t ht => by
    obtain ⟨x, -, rfl⟩ := Option.map_eq_some_iff.mp ht
    exact h x

theorem execUnknownControlCommand_agentChange {w : Word} {t : State}
    (h : execUnknownControlCommand w s = .next t) : AgentChange s t := by
  unfold execUnknownControlCommand at h
  split at h
  · refine writeAccess_agentChange h fun _ => Steady.change ?_
    split
    · exact .controlAnswer ..
    · exact .controlAnswer ..
  · cases h

theorem execSupervisorEvent_agentChange {t : State} (h : execSupervisorEvent s = .next t) :
    AgentChange s t := by
  refine readAccess_agentChange h fun _ => Steady.change ?_
  split
  · exact .after (.returns ..) .of_records
  · exact .after (.returns ..) .of_records

theorem execPoolDefinition_agentChange {p : PoolId} {w : Word} {t : State}
    (h : execPoolDefinition p w s = .next t) : AgentChange s t :=
  writeAccess_agentChange h fun _ => (configure_map_steady fun _ => .of_records).change

theorem execQueueConfiguration_agentChange {q : QueueId} {half : Half} {w : Word} {t : State}
    (h : execQueueConfiguration q half w s = .next t) : AgentChange s t :=
  writeAccess_agentChange h fun _ => (configure_map_steady fun _ => .setQueue ..).change

/-- An accepted Agent Configuration write keeps a context sound: the quota and the claim limit of an agent that is not
OFFLINE are the same, and one that is has no frame and no claim (R110, R114). -/
theorem AgentSound.configured {x : Agent} {w : Word} (h : AgentSound x) (good : ¬BadAgentWord w)
    (kept : x.state = .offline ∨
      (w.extractLsb' 0 11).toNat = x.quota ∧ (w.extractLsb' 16 7).toNat = x.claimLimit) (enable : Bool) :
    AgentSound { x with
      enable := enable, quota := (w.extractLsb' 0 11).toNat, claimLimit := (w.extractLsb' 16 7).toNat } := by
  obtain ⟨low, high, one, most, -⟩ := (not_badAgentWord_iff w).mp good
  have within : x.held.length + x.claims.length ≤ (w.extractLsb' 0 11).toNat ∧
      x.claims.length ≤ (w.extractLsb' 16 7).toNat := by
    rcases kept with offline | ⟨quota, limit⟩
    · obtain ⟨held, claims⟩ := h.offline_empty offline
      rw [held, claims]
      exact ⟨Nat.zero_le _, Nat.zero_le _⟩
    · rw [quota, limit]
      exact ⟨h.within_quota, h.within_limit⟩
  exact
    { h with
      quota_range := ⟨low, high⟩
      limit_range := ⟨one, most⟩
      within_quota := within.1
      within_limit := within.2 }

theorem execAgentConfiguration_agentChange {a : AgentId} {w : Word} {t : State}
    (h : execAgentConfiguration a w s = .next t) : AgentChange s t := by
  refine writeAccess_agentChange h fun _ => Steady.change (configure_steady fun refusal u hu => ?_)
  obtain ⟨y, accepted, rfl⟩ := Option.map_eq_some_iff.mp hu
  by_cases bad : BadAgentWord w
  · rw [agentOfWord_bad bad] at accepted
    cases accepted
  · rw [agentOfWord_good bad] at accepted refusal
    cases accepted
    have kept : (s.agent a).state = .offline ∨ (w.extractLsb' 0 11).toNat = (s.agent a).quota ∧
        (w.extractLsb' 16 7).toNat = (s.agent a).claimLimit := by
      simpa [refuseIf_eq_none_iff, or_iff_not_imp_left] using refusal
    exact .setAgent (.of_more (fun _ _ => rfl) (·.configured bad kept _) rfl (fun _ => id) fun _ => id)

theorem execGroupMemberSet_agentChange {g : GroupId} {w : Word} {t : State}
    (h : execGroupMemberSet g w s = .next t) : AgentChange s t :=
  writeAccess_agentChange h fun _ =>
    (configure_steady fun _ u hu => by cases hu; exact .of_records).change

theorem execDeadLetterSelection_agentChange {w : Word} {t : State}
    (h : execDeadLetterSelection w s = .next t) : AgentChange s t :=
  writeAccess_agentChange h fun _ => (configure_map_steady fun _ => .of_records).change

theorem execTimebasePrescaler_agentChange {w : Word} {t : State}
    (h : execTimebasePrescaler w s = .next t) : AgentChange s t :=
  writeAccess_agentChange h fun _ => (configure_map_steady fun _ => .of_records).change

theorem execSupervisorInterruptEnable_agentChange {w : Word} {t : State}
    (h : execSupervisorInterruptEnable w s = .next t) : AgentChange s t :=
  writeAccess_agentChange h fun _ => (configure_map_steady fun _ => .of_records).change

/-! ### The controller -/

theorem execFormat_agentChange {t : State} (h : execFormat s = .next t) : AgentChange s t := by
  refine writeAccess_agentChange h fun takes => Steady.change ?_
  split
  · exact .controlAnswer ..
  · exact .controlAnswer ..
  · split
    · exact .controlAnswer ..
    · exact .after (.controlAnswer ..) .of_records
  · exact absurd ‹_› takes.2

/-- The build enters a frame as FREE (R156). -/
theorem BindingsKept.buildFrame (f : FrameIdx) (s : State) : BindingsKept s (buildFrame f s) := by
  have entered (u : State) : BindingsKept u (enterFrame f u) :=
    .of_frames (generation_of_onlyFrame (enterFrame_frame f · u) (.inr rfl))
  rcases buildFrame_cases f s with built | ⟨base, size, built⟩
  · rw [built]; exact entered s
  · rw [built]; exact .before .of_records (entered _)

theorem execFormatBuildStep_agentChange {t : State} (h : execFormatBuildStep s = .next t) :
    AgentChange s t := by
  unfold execFormatBuildStep at h
  split at h
  · cases h; exact (BindingsKept.buildFrame ..).change
  · cases h; exact (Steady.refl s).change

/-- Before the build ends every agent is OFFLINE (R108), and so unbound. -/
theorem execFormatCompletion_agentChange {t : State} (h : execFormatCompletion s = .next t) :
    AgentChange s t := by
  unfold execFormatCompletion at h
  split at h
  · rename_i c
    cases h
    rw [offerEvent_eq]
    refine .of_unbound id fun controller law a => ((law a).leaving ?_).1
    have building : s.controller ≠ .running := by rw [c.1]; exact nofun
    rw [(((controllerLaw_iff s).mp controller).1 building).agents a]
    exact nofun
  · cases h; exact (Steady.refl s).change

theorem BindingsKept.scrubFrame (f : FrameIdx) (s : State) : BindingsKept s (scrubFrame f s) := by
  unfold Machine.scrubFrame
  dsimp only
  rw [reArmTest_joinFreeList]
  exact .of_frames (generation_of_onlyFrame (f := f) (fun _ => Table.get_set ..) (.inr rfl))

theorem execScrubCompletion_agentChange {t : State} (h : execScrubCompletion s = .next t) :
    AgentChange s t := by
  unfold execScrubCompletion at h
  split at h
  · cases h; exact (BindingsKept.scrubFrame ..).change
  · cases h; exact (Steady.refl s).change

theorem restartState_agent (s : State) (a : AgentId) :
    (restartState s).agent a = (s.agent a).restarted := Table.get_map ..

theorem execRestart_agentChange {t : State} (h : execRestart s = .next t) : AgentChange s t := by
  refine writeAccess_agentChange h fun _ => .of_unbound (fun law => ?_) fun _ _ a => ?_
  · have restarted : AgentLaw (restartState s) := fun a => by
      rw [restartState_agent]
      exact (law a).restarted
    exact restarted
  · change ((restartState s).agent a).binding = none
    rw [restartState_agent]
    rfl

theorem execPorstAssert_agentChange {t : State} (h : execPorstAssert s = .next t) : AgentChange s t := by
  cases h
  refine .of_unbound (fun _ => reset_agentLaw) fun _ _ a => ?_
  change (State.reset.agent a).binding = none
  rw [reset_agent]
  rfl

theorem execPorstRelease_agentChange {t : State} (h : execPorstRelease s = .next t) : AgentChange s t := by
  cases h
  have released : Steady s { s with porst := false } := .of_records
  exact released.change

theorem execInitialisationEnd_agentChange {t : State} (h : execInitialisationEnd s = .next t) :
    AgentChange s t := by
  refine Steady.change ?_
  unfold execInitialisationEnd at h
  split at h
  · cases h; exact .of_records
  · cases h; exact .refl s

/-! ### Queue commands -/

/-- A queue command is its transition, or nothing but the result record. -/
theorem queueCommand_agentChange {r : Requester} {q : QueueId} {k : Action} {code : Byte} {c : ResultCode}
    {transition : State → Option State} (h : ∀ t ∈ transition s, Steady s t) :
    AgentChange s (queueCommand r q k code c transition s) := by
  refine Steady.change ?_
  unfold queueCommand
  split
  · split
    · exact .answer ..
    · split
      · exact .after (.answer ..) (h _ ‹_›)
      · exact .answer ..
  · split
    · split
      · exact .after (.controlAnswer ..) (h _ ‹_›)
      · exact .controlAnswer ..
    · exact .controlAnswer ..

theorem openChange_steady {q : QueueId} {t : State} (h : t ∈ openChange q s) : Steady s t := by
  unfold openChange at h
  split at h <;> cases h <;> exact .setQueue ..

theorem pauseChange_steady {q : QueueId} {t : State} (h : t ∈ pauseChange q s) : Steady s t := by
  unfold pauseChange at h
  split at h <;> cases h; exact .setQueue ..

theorem resumeChange_steady {q : QueueId} {t : State} (h : t ∈ resumeChange q s) : Steady s t := by
  unfold resumeChange at h
  split at h <;> cases h; exact .setQueue ..

theorem drainChange_steady {r : Requester} {q : QueueId} {t : State} (h : t ∈ drainChange r q s) :
    Steady s t := by
  unfold drainChange at h
  split at h
  case h_1 | h_2 =>
    split at h <;> cases h
    · exact .after (.report ..) (.setQueue ..)
    · exact .setQueue ..
  all_goals cases h

theorem flushChange_steady {r : Requester} {q : QueueId} {t : State} (h : t ∈ flushChange r q s) :
    Steady s t := by
  unfold flushChange at h
  split at h <;> cases h <;> exact .setQueue ..

theorem disableChange_steady {q : QueueId} {t : State} (h : t ∈ disableChange q s) : Steady s t := by
  unfold disableChange at h
  split at h
  · split at h <;> cases h; exact .setQueue ..
  all_goals cases h

theorem execClearDiscard_agentChange {q : QueueId} {t : State} (h : execClearDiscard q s = .next t) :
    AgentChange s t :=
  writeAccess_agentChange h fun _ => ((Steady.setQueue ..).trans (.controlAnswer ..)).change

/-- A flush step drops an entry, which keeps its frame, and the reference (R102). -/
theorem BindingsKept.flushDrop (q : QueueId) (e : EntryId) (s : State) : BindingsKept s (flushDrop q e s) :=
  .before (.after (.freeEntry ..) (.setQueue ..)) (.dropReference ..)

theorem execFlushStep_agentChange {q : QueueId} {t : State} (h : execFlushStep q s = .next t) :
    AgentChange s t := by
  unfold execFlushStep at h
  split at h
  · split at h
    · cases h; exact (BindingsKept.flushDrop ..).change
    · cases h
      have ended : Steady s (flushEnd q s) := .after (.report ..) (.setQueue ..)
      exact ended.change
  · cases h; exact (Steady.refl s).change

/-! ### Pins, the timer and held accesses -/

theorem execIgnoredWrite_agentChange {p : Port} {page : BitVec 4} {offset : BitVec 10} {w : Word} {t : State}
    (h : execIgnoredWrite p page offset w s = .next t) : AgentChange s t := by
  unfold execIgnoredWrite at h
  split at h
  · exact writeAccess_agentChange h fun _ => (Steady.refl s).change
  · cases h

theorem Steady.retireForPort (s : State) (a : AgentId) : Steady s (retireForPort s a) := by
  unfold Machine.retireForPort
  split
  · exact .beginRetire ..
  · exact .refl s

theorem Steady.retireForPort_foldl : ∀ (l : List AgentId) (s : State), Steady s (l.foldl Machine.retireForPort s)
  | [], s => .refl s
  | a :: l, s => (Steady.retireForPort s a).trans (retireForPort_foldl l _)

theorem execPortResetAssert_agentChange {p : Port} {t : State} (h : execPortResetAssert p s = .next t) :
    AgentChange s t := by
  refine Steady.change ?_
  unfold execPortResetAssert at h
  split at h
  · cases h; exact .refl s
  · cases h; exact .after (.retireForPort_foldl ..) (.setResetLine ..)

theorem execTick_agentChange {t : State} (h : execTick s = .next t) : AgentChange s t := by
  refine Steady.change ?_
  cases h
  split
  · exact .of_records
  · exact .refl s

/-- Every command but the release of a port's reset line keeps what the laws say of the agents and the bindings. -/
theorem exec_agentChange_of_not_release {c : Instr} (hc : ∀ p, c ≠ .portResetRelease p) {t : State}
    (h : exec c s = .next t) : AgentChange s t := by
  cases c with
  | alloc a p => exact execAlloc_agentChange h
  | receive a q => exact execReceive_agentChange h
  | receiveAny a => exact execReceiveAny_agentChange h
  | post a w => exact writeAccess_agentChange h fun _ => postWrite_agentChange a w s
  | postToGroup a w => exact writeAccess_agentChange h fun _ => postWrite_agentChange a w s
  | reply a w => exact execReply_agentChange h
  | free a w => exact execFree_agentChange h
  | complete a w => exact execComplete_agentChange h
  | take a w => exact execTake_agentChange h
  | release a w => exact execRelease_agentChange h
  | bindWrite a w => exact execBindWrite_agentChange h
  | bindRead a => exact execBindRead_agentChange h
  | attach a => exact execAttach_agentChange h
  | detach a => exact execDetach_agentChange h
  | openQueue r q =>
    exact writeAccess_agentChange h fun _ => queueCommand_agentChange fun _ => openChange_steady
  | pause r q =>
    exact writeAccess_agentChange h fun _ => queueCommand_agentChange fun _ => pauseChange_steady
  | resume r q =>
    exact writeAccess_agentChange h fun _ => queueCommand_agentChange fun _ => resumeChange_steady
  | drain r q =>
    exact writeAccess_agentChange h fun _ => queueCommand_agentChange fun _ => drainChange_steady
  | flush r q =>
    exact writeAccess_agentChange h fun _ => queueCommand_agentChange fun _ => flushChange_steady
  | unknownAgentCommand a code => exact execUnknownAgentCommand_agentChange h
  | notice a => exact execNotice_agentChange h
  | stagingDestination a w => exact writeAccess_agentChange h fun _ => (Steady.stagingWrite ..).change
  | stagingAttributes a w => exact writeAccess_agentChange h fun _ => (Steady.stagingWrite ..).change
  | stagingLength a w => exact writeAccess_agentChange h fun _ => (Steady.stagingWrite ..).change
  | interruptEnable a w => exact execInterruptEnable_agentChange h
  | apertureRead a m lanes => exact execApertureRead_agentChange h
  | apertureWrite a m lanes w => exact execApertureWrite_agentChange h
  | format => exact execFormat_agentChange h
  | restart => exact execRestart_agentChange h
  | disable q =>
    exact writeAccess_agentChange h fun _ => queueCommand_agentChange fun _ => disableChange_steady
  | retire a => exact execRetire_agentChange h
  | clearDiscard q => exact execClearDiscard_agentChange h
  | unknownControlCommand w => exact execUnknownControlCommand_agentChange h
  | supervisorEvent => exact execSupervisorEvent_agentChange h
  | poolDefinition p w => exact execPoolDefinition_agentChange h
  | queueConfiguration q half w => exact execQueueConfiguration_agentChange h
  | agentConfiguration a w => exact execAgentConfiguration_agentChange h
  | groupMemberSet g w => exact execGroupMemberSet_agentChange h
  | deadLetterSelection w => exact execDeadLetterSelection_agentChange h
  | timebasePrescaler w => exact execTimebasePrescaler_agentChange h
  | supervisorInterruptEnable w => exact execSupervisorInterruptEnable_agentChange h
  | ignoredWrite p page offset w => exact execIgnoredWrite_agentChange h
  | porstAssert => exact execPorstAssert_agentChange h
  | porstRelease => exact execPorstRelease_agentChange h
  | initialisationEnd => exact execInitialisationEnd_agentChange h
  | portResetAssert p => exact execPortResetAssert_agentChange h
  | portResetRelease p => exact absurd rfl (hc p)
  | tick => exact execTick_agentChange h
  | claimExpiry => exact execClaimExpiry_agentChange h
  | formatBuildStep => exact execFormatBuildStep_agentChange h
  | formatCompletion => exact execFormatCompletion_agentChange h
  | scrubCompletion => exact execScrubCompletion_agentChange h
  | flushStep q => exact execFlushStep_agentChange h
  | retireClaimStep a => exact execRetireClaimStep_agentChange h
  | retireFreeStep a => exact execRetireFreeStep_agentChange h

theorem takeHeld_agentChange {p : Port} {c : HeldAccess} {t : State} (h : takeHeld p c s = .next t) :
    AgentChange s t := by
  cases c with
  | read x => cases h; exact (Steady.plainRead ..).change
  | command c =>
    by_cases access : (accessPort c).isSome = true
    · rw [takeHeld, takeCommand_eq_exec access] at h
      exact exec_agentChange_of_not_release (fun p hp => by simp [hp, accessPort] at access) h
    · rw [takeHeld, takeCommand_of_not_access (by simpa using access)] at h
      cases h; exact (Steady.refl s).change

end Control

end Sys2Proof.Machine

end

section

-- Taken one after the other, the proofs need one thread (see Tests/Slice0.lean).
set_option Elab.async false

namespace Sys2Proof.Machine

/-! ## What every step keeps -/

/-- A change of a step as each of the developments before this one describes it: for the controller, for the lists of
frames and entries, and for the agents and their bindings. -/
structure StepChange (s t : State) : Prop where
  change : Change s t
  moves : Moves s t
  agents : AgentChange s t

section Keeps

variable {P : State → Prop} (keeps : ∀ s t, StepChange s t → P s → P t)
include keeps

theorem takeHeldAll_keeps_of_stepChange {p : Port} : ∀ {l : List HeldAccess} {s t : State},
    takeHeldAll p l s = .next t → P s → P t
  | [], s, t, h, hs => by cases h; exact hs
  | c :: l, s, t, h, hs => by
    simp only [takeHeldAll] at h
    split at h
    · rename_i u taken
      have change : StepChange s u := ⟨takeHeld_change taken, takeHeld_moves taken, takeHeld_agentChange taken⟩
      exact takeHeldAll_keeps_of_stepChange h (keeps _ _ change hs)
    · cases h
    · cases h

theorem exec_keeps_of_stepChange {c : Instr} {s t : State} (h : exec c s = .next t) (hs : P s) : P t := by
  by_cases hc : ∃ p, c = .portResetRelease p
  · obtain ⟨p, rfl⟩ := hc
    have released : StepChange s ((s.setResetLine p false).setHeldAccesses p []) :=
      ⟨.released, ((Quiet.setResetLine ..).trans (.setHeldAccesses ..)).moves,
        ((Steady.setResetLine ..).trans (.setHeldAccesses ..)).change⟩
    exact takeHeldAll_keeps_of_stepChange keeps h (keeps _ _ released hs)
  · have other : ∀ p, c ≠ .portResetRelease p := fun p hp => hc ⟨p, hp⟩
    have change : StepChange s t :=
      ⟨exec_change_of_not_release other h, exec_moves h, exec_agentChange_of_not_release other h⟩
    exact keeps _ _ change hs

/-- What every such change keeps, every step keeps. -/
theorem step_keeps_of_stepChange {s t : State} (h : step s = .next t) (hs : P s) : P t := by
  unfold step at h
  split at h
  · rename_i c rest _
    have queued : Steady s { s with pending := rest } := .of_records
    have change : StepChange s { s with pending := rest } :=
      ⟨.of_calm .of_records, (Quiet.of_records).moves, queued.change⟩
    exact exec_keeps_of_stepChange keeps h (keeps _ _ change hs)
  · cases h
    have change : StepChange s (clockPeriod s) :=
      ⟨clockPeriod_change s, (Quiet.clockPeriod s).moves, (Steady.clockPeriod s).change⟩
    exact keeps _ _ change hs

end Keeps

/-- The laws that the law of the bindings rests on, and itself. -/
structure BindingsSound (s : State) : Prop where
  controller : ControllerLaw s
  agents : AgentLaw s
  table : FrameTableLaw s
  entries : EntryLaw s
  references : ReferenceLaw s
  bindings : BindingLaw s

theorem StepChange.keeps_bindingsSound {s t : State} (h : StepChange s t) (laws : BindingsSound s) :
    BindingsSound t := by
  have lists : ReferencesKept t := h.moves.keeps (fun _ _ => Move.keeps_references)
    ⟨laws.agents.offlineIdle, laws.entries, laws.table, laws.references⟩
  exact
    { controller := h.change.keeps_controllerLaw laws.controller
      agents := h.agents.agents laws.agents
      table := lists.table
      entries := lists.entries
      references := lists.references
      bindings := h.agents.bindings laws.controller laws.agents laws.entries laws.references
        lists.references laws.bindings }

/-- Settles O52: every change of a step keeps the law of the agents, and with the laws that it rests on that of the
bindings (`BindingsKept.keeps_bindingLaw`). -/
theorem everyStepKeepsAgentLaw : Obligations.EveryStepKeepsAgentLaw :=
  fun _ _ agents h =>
    ⟨step_keeps_of_stepChange (fun _ _ change => change.agents.agents) h agents,
      fun controller table entries references bindings =>
        (step_keeps_of_stepChange (fun _ _ => StepChange.keeps_bindingsSound) h
          ⟨controller, agents, table, entries, references, bindings⟩).bindings⟩

end Sys2Proof.Machine

end

/-!
The frame aperture: the bytes of an index in the layout (R2), the lanes of a word (R130), the rights over a frame
(R129), and what each access of the aperture comes to (R127, R128, R131).
-/

section

-- Taken one after the other, the proofs need one thread (see Tests/Slice0.lean).
set_option Elab.async false

namespace Sys2Proof.Machine

/-! ## The words of a frame -/

theorem bytesBelow_mono (s : State) : Monotone (bytesBelow s) := by
  intro m n le
  simp only [bytesBelow, ← Fin.sum_univ_def]
  refine Finset.sum_le_sum fun p _ => Nat.mul_le_mul_right _ (min_le_min_right _ ?_)
  exact Nat.sub_le_sub_right le _

/-- The byte at `k` is one of those of index `n` in the layout (R2). -/
def InIndex (s : State) (n k : Nat) : Prop := bytesBelow s n ≤ k ∧ k < bytesBelow s (n + 1)

/-- The bytes of two indices are apart (R2). -/
theorem InIndex.unique {s : State} {m n k : Nat} (first : InIndex s m k) (second : InIndex s n k) :
    m = n := by
  obtain ⟨from1, to1⟩ := first
  obtain ⟨from2, to2⟩ := second
  rcases lt_trichotomy m n with lt | same | gt
  · have := bytesBelow_mono s (show m + 1 ≤ n from lt)
    omega
  · exact same
  · have := bytesBelow_mono s (show n + 1 ≤ m from gt)
    omega

section Frames

variable {s : State} {f : FrameIdx}

/-- A frame in the pool that its index falls in has the bytes of its index (R2). -/
theorem frameBytes_of_pool (pool : (s.frame f).pool = poolOfIndex s f.val) (below : f.val < frameTotal s) :
    frameBase s f = bytesBelow s f.val ∧ frameBase s f + sizeOfFrame s f = bytesBelow s (f.val + 1) := by
  obtain ⟨first, last⟩ := poolOfIndex_range below
  rw [bytesBelow_succ first last, bytesBelow_eq first last, frameBase, sizeOfFrame, pool]
  exact ⟨rfl, rfl⟩

theorem inIndex_iff_of_pool (pool : (s.frame f).pool = poolOfIndex s f.val) (below : f.val < frameTotal s)
    (k : Nat) : InIndex s f.val k ↔ frameBase s f ≤ k ∧ k < frameBase s f + sizeOfFrame s f := by
  obtain ⟨base, limit⟩ := frameBytes_of_pool pool below
  rw [limit, base, InIndex]

theorem FrameTableLaw.inIndex_iff (table : FrameTableLaw s) (built : f.val < s.built) (k : Nat) :
    InIndex s f.val k ↔ frameBase s f ≤ k ∧ k < frameBase s f + sizeOfFrame s f :=
  inIndex_iff_of_pool (table.pools_match f built) (built.trans_le table.progress) k

/-- A word that begins inside a frame ends inside it: frame sizes are whole words (R1). -/
theorem word_le_sizeOfFrame {m : BitVec 9} (inside : 4 * m.toNat < sizeOfFrame s f) :
    4 * m.toNat + 4 ≤ sizeOfFrame s f := by
  unfold sizeOfFrame frameSize at inside ⊢
  omega

/-- A word of a frame of the table lies in frame memory (R2). -/
theorem FrameTableLaw.word_fits (table : FrameTableLaw s) (used : (s.frame f).state ≠ .free) {m : BitVec 9}
    (inside : 4 * m.toNat < sizeOfFrame s f) : wordAddress s f m + 4 ≤ Config.memoryBytes := by
  have fits := (framesFollowOneAnother s f table (table.in_table f used)).2
  have word := word_le_sizeOfFrame inside
  rw [wordAddress, Config.memoryBytes]
  omega

end Frames

/-! ## The lanes of a word -/

/-- A lane read back is its byte; the other lanes are 0. -/
theorem extract_inLane (v : Byte) {i j : Nat} (hj : j < 4) :
    (inLane v j).extractLsb' (8 * i) 8 = if i = j then v else 0 := by
  apply BitVec.eq_of_getLsbD_eq
  intro b hb
  simp only [inLane, BitVec.getLsbD_extractLsb', BitVec.getLsbD_shiftLeft, BitVec.getLsbD_setWidth]
  by_cases same : i = j
  · subst same
    have inside : 8 * i + b < 32 ∧ ¬8 * i + b < 8 * i ∧ 8 * i + b - 8 * i = b ∧ b < 32 := by omega
    simp [hb, inside]
  · by_cases below : 8 * i + b < 8 * j
    · simp [below, same]
    · have outside : 8 ≤ 8 * i + b - 8 * j := by omega
      simp [same, BitVec.getLsbD_of_ge v _ outside]

/-- A word read has in each enabled lane the byte at its address, and 0 in the others (R130). -/
theorem Memory.extract_readLanes (m : Memory) (k : Nat) (lanes : BitVec 4) {i : Nat} (hi : i < 4) :
    (m.readLanes k lanes).extractLsb' (8 * i) 8 =
      if lanes.getLsbD i = true then m.read (k + i) else 0 := by
  have lane (j : Nat) (hj : j < 4) :
      (if lanes.getLsbD j = true then inLane (m.read (k + j)) j else 0).extractLsb' (8 * i) 8 =
        if i = j ∧ lanes.getLsbD j = true then m.read (k + j) else 0 := by
    by_cases enabled : lanes.getLsbD j = true
    · simp only [enabled, if_true, and_true, extract_inLane _ hj]
    · rw [if_neg enabled, if_neg fun h => enabled h.2]
      exact BitVec.extractLsb'_zero
  simp only [Memory.readLanes, BitVec.extractLsb'_or, lane 0 (by omega), lane 1 (by omega),
    lane 2 (by omega), lane 3 (by omega)]
  interval_cases i <;> simp

/-! ## The rights over a frame (R129) -/

section Rights

variable {s : State} {a : AgentId} {f : FrameIdx}

theorem claimsOn_isEmpty_eq_false_iff :
    (claimsOn s a f).isEmpty = false ↔ ∃ e ∈ (s.agent a).claims, (s.entry e).frame = f := by
  rw [← Bool.not_eq_true, claimsOn_isEmpty_iff]
  push Not
  rfl

theorem mayWrite_iff :
    mayWrite s a f = true ↔ (s.frame f).state = .held ∧ (s.frame f).holder = some a :=
  holds_iff s a f

theorem mayRead_iff : mayRead s a f = true ↔
    ((s.frame f).state = .held ∧ (s.frame f).holder = some a) ∨
      (s.frame f).state = .posted ∧ ∃ e ∈ (s.agent a).claims, (s.entry e).frame = f := by
  rw [mayRead, Bool.or_eq_true, Bool.and_eq_true, Bool.not_eq_true', holds_iff, beq_iff_eq,
    claimsOn_isEmpty_eq_false_iff]

variable {m : BitVec 9} {right : State → AgentId → FrameIdx → Bool}

/-- What an aperture access that is not refused reaches (R131). -/
theorem apertureFrame_eq_some_iff : apertureFrame s a m right = some f ↔
    ∃ h, (s.agent a).binding = some h ∧ handleIndex h = f ∧ 4 * m.toNat < sizeOfFrame s f ∧
      right s a f = true := by
  unfold apertureFrame
  cases (s.agent a).binding with
  | none => simp
  | some h =>
    simp only [Option.some.injEq, exists_eq_left']
    constructor
    · intro reached
      split at reached
      · rename_i passes
        cases reached
        exact ⟨rfl, passes⟩
      · cases reached
    · rintro ⟨rfl, passes⟩
      rw [if_pos passes]

/-- An aperture access is refused when each binding there is fails its place or its right (R131). -/
theorem apertureFrame_eq_none (fails : ∀ h, (s.agent a).binding = some h →
    sizeOfFrame s (handleIndex h) ≤ 4 * m.toNat ∨ ¬right s a (handleIndex h) = true) :
    apertureFrame s a m right = none := by
  by_contra reached
  obtain ⟨f, reached⟩ := Option.ne_none_iff_exists'.mp reached
  obtain ⟨h, bound, rfl, inside, may⟩ := apertureFrame_eq_some_iff.mp reached
  rcases fails h bound with beyond | without
  · omega
  · exact without may

end Rights

/-! ## The accesses of the aperture -/

/-- The checks of a write of BIND: of a handle, or of 0 (R127). -/
def bindCheck (s : State) (a : AgentId) (h : Word) : Option ResultCode :=
  if h = nullHandle then commonPrefix s a else bindRefusal s a h

section Accesses

variable {s : State} {a : AgentId} (takes : PortTakes s (agentPort a))
include takes

theorem exec_bindWrite_refused {h : Word} {code : ResultCode} (refused : bindCheck s a h = some code) :
    exec (.bindWrite a h) s = .next (s.answer a code .bind h) := by
  change execBindWrite a h s = _
  rw [bindCheck] at refused
  rw [execBindWrite, writeAccess, takeAccess_of_takes takes, refused]

theorem exec_bindWrite_accepted {h : Word} (passes : bindCheck s a h = none) :
    exec (.bindWrite a h) s = .next
      ((setBinding a (if h = nullHandle then none else some h) s).answer a .ok .bind h) := by
  change execBindWrite a h s = _
  rw [bindCheck] at passes
  rw [execBindWrite, writeAccess, takeAccess_of_takes takes, passes]

theorem exec_bindRead_refused {code : ResultCode} (refused : commonPrefix s a = some code) :
    exec (.bindRead a) s = .next ((s.answer a code .bind nullHandle).returns (agentPort a) nullHandle) := by
  change execBindRead a s = _
  rw [execBindRead, readAccess, takeAccess_of_takes takes, refused]

theorem exec_bindRead_accepted (passes : commonPrefix s a = none) :
    exec (.bindRead a) s = .next
      ((s.answer a .ok .bind ((s.agent a).binding.getD nullHandle)).returns (agentPort a)
        ((s.agent a).binding.getD nullHandle)) := by
  change execBindRead a s = _
  rw [execBindRead, readAccess, takeAccess_of_takes takes, passes]

variable {m : BitVec 9} (lanes : BitVec 4)

theorem exec_apertureRead_refused (refused : apertureFrame s a m mayRead = none) :
    exec (.apertureRead a m lanes) s = .next ((refuseAperture a s).returns (agentPort a) 0) := by
  change execApertureRead a m lanes s = _
  rw [execApertureRead, takeAccess_of_takes takes, refused]

theorem exec_apertureWrite_refused (w : Word) (refused : apertureFrame s a m mayWrite = none) :
    exec (.apertureWrite a m lanes w) s = .next (refuseAperture a s) := by
  change execApertureWrite a m lanes w s = _
  rw [execApertureWrite, takeAccess_of_takes takes, refused]

variable {f : FrameIdx} (fits : wordAddress s f m + 4 ≤ Config.memoryBytes)
include fits

theorem exec_apertureRead_reached (reached : apertureFrame s a m mayRead = some f) :
    exec (.apertureRead a m lanes) s =
      .next (s.returns (agentPort a) (s.mem.readLanes (wordAddress s f m) lanes)) := by
  change execApertureRead a m lanes s = _
  rw [execApertureRead, takeAccess_of_takes takes, reached]
  exact if_pos fits

theorem exec_apertureWrite_reached (w : Word) (reached : apertureFrame s a m mayWrite = some f) :
    exec (.apertureWrite a m lanes w) s =
      .next { s with mem := s.mem.writeLanes (wordAddress s f m) lanes w } := by
  change execApertureWrite a m lanes w s = _
  rw [execApertureWrite, takeAccess_of_takes takes, reached]
  exact if_pos fits

end Accesses

/-- A write of a handle to BIND checks as R127 lists it. -/
theorem bindRefusal_eq (s : State) (a : AgentId) (h : Word) : bindRefusal s a h =
    (prefixAnswer s a).or ((handleAnswer s h).or
      (if (s.frame (handleIndex h)).state = .held ∧ (s.frame (handleIndex h)).holder = some a ∨
          ∃ e ∈ (s.agent a).claims, (s.entry e).frame = handleIndex h then none
      else some .notOwner)) := by
  rw [bindRefusal, firstRefusal_cons, firstRefusal_cons, commonPrefix_eq, handleCheck_eq,
    firstRefusal_refuseIf, firstRefusal_nil]
  simp only [← holds_iff, ← claimsOn_isEmpty_eq_false_iff]
  cases holds s a (handleIndex h) <;> cases (claimsOn s a (handleIndex h)).isEmpty <;> rfl

/-- A write of BIND checks as R127 lists it; a write of 0 makes the common checks alone. -/
theorem bindCheck_eq (s : State) (a : AgentId) (h : Word) : bindCheck s a h =
    (prefixAnswer s a).or
      (if h = 0 then none
      else (handleAnswer s h).or
        (if (s.frame (handleIndex h)).state = .held ∧ (s.frame (handleIndex h)).holder = some a ∨
            ∃ e ∈ (s.agent a).claims, (s.entry e).frame = handleIndex h then none
        else some .notOwner)) := by
  rw [bindCheck, bindRefusal_eq, commonPrefix_eq]
  by_cases null : h = 0
  · rw [if_pos (show h = nullHandle from null), if_pos null, Option.or_none]
  · rw [if_neg (show h ≠ nullHandle from null), if_neg null]

/-- Settles O21: both accesses make the checks of their rule, in its order. -/
theorem bindNamesFrame : Obligations.BindNamesFrame := by
  intro s a takes
  refine ⟨fun h => ?_, ?_⟩
  · split
    · rename_i code answer
      exact exec_bindWrite_refused takes ((bindCheck_eq s a h).trans answer)
    · rename_i answer
      rw [exec_bindWrite_accepted takes ((bindCheck_eq s a h).trans answer), setBinding, State.setAgent_answer]
      rfl
  · split
    · rename_i code answer
      exact exec_bindRead_refused takes ((commonPrefix_eq s a).trans answer)
    · rename_i answer
      exact exec_bindRead_accepted takes ((commonPrefix_eq s a).trans answer)

/-- Settles O22: the word lies in frame memory because frame sizes are whole words. -/
theorem apertureReadsBoundFrame : Obligations.ApertureReadsBoundFrame := by
  intro s a m lanes h table takes bound inside right
  have reached : apertureFrame s a m mayRead = some (handleIndex h) :=
    apertureFrame_eq_some_iff.mpr ⟨h, bound, rfl, inside, mayRead_iff.mpr right⟩
  have used : (s.frame (handleIndex h)).state ≠ .free := by
    rcases right with ⟨state, -⟩ | ⟨state, -⟩ <;> simp [state]
  exact ⟨_, exec_apertureRead_reached takes lanes (table.word_fits used inside) reached,
    fun i hi => Memory.extract_readLanes s.mem _ lanes hi⟩

/-- Settles O23. -/
theorem apertureWritesHeldFrame : Obligations.ApertureWritesHeldFrame := by
  intro s a m lanes w h table memory takes bound inside held holder
  have reached : apertureFrame s a m mayWrite = some (handleIndex h) :=
    apertureFrame_eq_some_iff.mpr ⟨h, bound, rfl, inside, mayWrite_iff.mpr ⟨held, holder⟩⟩
  have used : (s.frame (handleIndex h)).state ≠ .free := by simp [held]
  exact ⟨_, exec_apertureWrite_reached takes lanes (table.word_fits used inside) w reached,
    fun k => Memory.read_writeLanes s.mem _ lanes w k memory.1, rfl⟩

/-- Settles O24: without binding, place or right the access reaches no frame. -/
theorem apertureRefusesWithoutRight : Obligations.ApertureRefusesWithoutRight := by
  intro s a m lanes w takes
  refine ⟨fun fails => ?_, fun fails => ?_⟩
  · exact exec_apertureRead_refused takes lanes (apertureFrame_eq_none fun h bound =>
      (fails h bound).imp_right fun without => mt mayRead_iff.mp without)
  · exact exec_apertureWrite_refused takes lanes w (apertureFrame_eq_none fun h bound =>
      (fails h bound).imp_right fun without => mt mayWrite_iff.mp without)

end Sys2Proof.Machine

end

/-!
The bytes of the POSTED frames (R129, R134): which commands write frame memory at all, and of those that do, that the
bytes they write are of an index where no frame is POSTED.
-/

section

-- Taken one after the other, the proofs need one thread (see Tests/Slice0.lean).
set_option Elab.async false

namespace Sys2Proof.Machine

/-! ## The shared operations keep frame memory -/

section Operations

variable (s : State)

@[simp] theorem offerNotice_mem (a : AgentId) (n : Notice) : (offerNotice a n s).mem = s.mem :=
  (Quiet.offerNotice a n s).mem

@[simp] theorem offerEvent_mem (e : SupervisorEvent) : (offerEvent e s).mem = s.mem :=
  (Quiet.offerEvent e s).mem

@[simp] theorem report_mem (r : Option Requester) (n : Notice) (e : SupervisorEvent) :
    (report r n e s).mem = s.mem := (Quiet.report r n e s).mem

@[simp] theorem unbind_mem (a : AgentId) (f : FrameIdx) : (unbind a f s).mem = s.mem :=
  (Quiet.unbind a f s).mem

@[simp] theorem unbindWithoutClaim_mem (a : AgentId) (f : FrameIdx) :
    (unbindWithoutClaim a f s).mem = s.mem := (Quiet.unbindWithoutClaim a f s).mem

@[simp] theorem drainCompletion_mem (q : QueueId) : (drainCompletion q s).mem = s.mem :=
  (Quiet.drainCompletion q s).mem

@[simp] theorem lowWaterTest_mem (p : PoolId) : (lowWaterTest p s).mem = s.mem :=
  (Quiet.lowWaterTest p s).mem

@[simp] theorem reArmTest_mem (p : PoolId) : (reArmTest p s).mem = s.mem := (Quiet.reArmTest p s).mem

@[simp] theorem beginRetire_mem (a : AgentId) (c : RetireCause) : (beginRetire a c s).mem = s.mem := rfl

@[simp] theorem joinFreeList_mem (f : FrameIdx) : (joinFreeList f s).mem = s.mem := rfl

@[simp] theorem dropReference_mem (f : FrameIdx) : (dropReference f s).mem = s.mem :=
  (Traffic.dropReference f s).mem

@[simp] theorem giveBack_mem (a : AgentId) (f : FrameIdx) : (giveBack a f s).mem = s.mem :=
  (Traffic.giveBack a f s).mem

@[simp] theorem postFrame_mem (a : AgentId) (f : FrameIdx) (qs : List QueueId) :
    (postFrame a f qs s).mem = s.mem := (Traffic.postFrame a f qs s).mem

@[simp] theorem claimEntry_mem (a : AgentId) (q : QueueId) (e : EntryId) :
    (claimEntry a q e s).mem = s.mem := (Traffic.claimEntry a q e s).mem

@[simp] theorem endClaim_mem (a : AgentId) (e : EntryId) : (endClaim a e s).mem = s.mem := rfl

@[simp] theorem freeEntry_mem (e : EntryId) : (freeEntry e s).mem = s.mem := rfl

@[simp] theorem allocFrame_mem (a : AgentId) (f : FrameIdx) : (allocFrame a f s).mem = s.mem := rfl

@[simp] theorem joinHeld_mem (a : AgentId) (f : FrameIdx) : (joinHeld a f s).mem = s.mem := rfl

@[simp] theorem setBinding_mem (a : AgentId) (b : Option Word) : (setBinding a b s).mem = s.mem := rfl

@[simp] theorem refuseAperture_mem (a : AgentId) : (refuseAperture a s).mem = s.mem := rfl

@[simp] theorem returnEntry_mem (e : EntryId) (n : Nat) : (returnEntry e n s).mem = s.mem := rfl

@[simp] theorem moveEntry_mem (e : EntryId) (d : QueueId) : (moveEntry e d s).mem = s.mem := by
  simp [moveEntry]

@[simp] theorem dropIntoFlush_mem (e : EntryId) : (dropIntoFlush e s).mem = s.mem := by
  simp [dropIntoFlush]

@[simp] theorem dropWithNotice_mem (e : EntryId) : (dropWithNotice e s).mem = s.mem := by
  simp [dropWithNotice]

@[simp] theorem deadLetterPath_mem (e : EntryId) : (deadLetterPath e s).mem = s.mem := by
  unfold deadLetterPath
  split <;> simp

/-- Whatever the redelivery path does with an entry (R86). -/
@[simp] theorem redeliver_mem (e : EntryId) (r : ReturnReason) : (redeliver e r s).mem = s.mem := by
  unfold redeliver
  split
  · exact dropIntoFlush_mem s e
  · exact dropWithNotice_mem s e
  · exact dropWithNotice_mem s e
  all_goals
    split
    · exact returnEntry_mem s e _
    all_goals
      split
      · exact returnEntry_mem s e _
      · exact deadLetterPath_mem s e

@[simp] theorem acceptReceive_mem (a : AgentId) (q : QueueId) (e : EntryId) (k : Action) :
    (acceptReceive a q e k s).mem = s.mem := by
  simp [acceptReceive]

@[simp] theorem refuseReceive_mem (a : AgentId) (c : ResultCode) (k : Action) (w : Word) :
    (refuseReceive a c k w s).mem = s.mem := by
  simp [refuseReceive]

@[simp] theorem completeClaim_mem (a : AgentId) (e : EntryId) : (completeClaim a e s).mem = s.mem := by
  simp [completeClaim]

@[simp] theorem takeClaim_mem (a : AgentId) (e : EntryId) : (takeClaim a e s).mem = s.mem := by
  simp [takeClaim]

@[simp] theorem releaseClaim_mem (a : AgentId) (e : EntryId) : (releaseClaim a e s).mem = s.mem := by
  simp [releaseClaim]

@[simp] theorem stagingWrite_mem (a : AgentId) (change : Staging → Staging) :
    (stagingWrite a change s).mem = s.mem := by
  unfold stagingWrite
  dsimp only
  split <;> rfl

@[simp] theorem retireForPort_mem (a : AgentId) : (retireForPort s a).mem = s.mem :=
  (retireForPort_quiet s a).mem

@[simp] theorem retireForPorts_mem (l : List AgentId) : (l.foldl retireForPort s).mem = s.mem := by
  induction l generalizing s with
  | nil => rfl
  | cons a l ih => rw [List.foldl_cons, ih, retireForPort_mem]

/-- A queue command keeps frame memory when its transition does. -/
theorem queueCommand_mem {r : Requester} {q : QueueId} {k : Action} {code : Byte} {c : ResultCode}
    {transition : State → Option State} (h : ∀ t ∈ transition s, Quiet s t) :
    (queueCommand r q k code c transition s).mem = s.mem := by
  unfold queueCommand
  split
  · split
    · rfl
    · split
      · exact (State.answer_mem ..).trans (h _ ‹_›).mem
      · rfl
  · split
    · split
      · exact (State.controlAnswer_mem ..).trans (h _ ‹_›).mem
      · rfl
    · rfl

/-- A configuration write keeps frame memory when the change of its register does. -/
theorem configure_mem {offset n : Nat} {refusal : Option ControlCode} {change : Option State}
    (h : ∀ t ∈ change, t.mem = s.mem) : (configure offset n refusal change s).mem = s.mem := by
  unfold configure
  dsimp only
  split
  · rfl
  · rfl
  · exact (State.controlAnswer_mem ..).trans (h _ rfl)

/-- The same, for a change that is a function of a value that the word spells. -/
theorem configure_map_mem {α : Type} {offset n : Nat} {refusal : Option ControlCode} {value : Option α}
    {change : α → State} (h : ∀ x, (change x).mem = s.mem) :
    (configure offset n refusal (value.map change) s).mem = s.mem :=
  configure_mem s fun t ht => by
    obtain ⟨x, -, rfl⟩ := Option.map_eq_some_iff.mp ht
    exact h x

end Operations

/-! ## The commands that keep frame memory -/

section Commands

variable {s t : State} {a : AgentId}

/-- What holds of an access that is held, of one that completes in INIT and of its run, holds of what it leaves. -/
theorem takeAccess_keeps {P : State → Prop} {p : Port} {c : HeldAccess} {inInit : State → State}
    {run : State → Out} (h : takeAccess p c inInit run s = .next t)
    (held : ∀ l, P (s.setHeldAccesses p l)) (init : P (inInit s)) (runs : run s = .next t → P t) : P t := by
  rcases takeAccess_cases h with ⟨-, e⟩ | ⟨-, -, e⟩ | ⟨-, e⟩
  · cases e; exact held _
  · cases e; exact init
  · exact runs e.symm

theorem takeAccess_mem {p : Port} {c : HeldAccess} {inInit : State → State} {run : State → Out}
    (h : takeAccess p c inInit run s = .next t) (init : (inInit s).mem = s.mem)
    (runs : run s = .next t → t.mem = s.mem) : t.mem = s.mem :=
  takeAccess_keeps (P := fun u => u.mem = s.mem) h (State.setHeldAccesses_mem s p) init runs

theorem readAccess_mem {p : Port} {c : Instr} {run : State → State} (h : readAccess p c run s = .next t)
    (runs : (run s).mem = s.mem) : t.mem = s.mem :=
  takeAccess_mem h (State.returns_mem ..) fun e => by cases e; exact runs

theorem writeAccess_mem {p : Port} {c : Instr} {run : State → State} (h : writeAccess p c run s = .next t)
    (runs : (run s).mem = s.mem) : t.mem = s.mem :=
  takeAccess_mem h rfl fun e => by cases e; exact runs

theorem execAlloc_mem {p : PoolId} (h : execAlloc a p s = .next t) : t.mem = s.mem := by
  refine readAccess_mem h ?_
  split <;> simp

theorem execReceive_mem {q : QueueId} (h : execReceive a q s = .next t) : t.mem = s.mem := by
  refine readAccess_mem h ?_
  split <;> simp

theorem execReceiveAny_mem (h : execReceiveAny a s = .next t) : t.mem = s.mem := by
  refine readAccess_mem h ?_
  split
  · split <;> simp
  · simp

theorem postWrite_mem (a : AgentId) (w : Word) (s : State) : (postWrite a w s).mem = s.mem := by
  unfold postWrite
  split <;> simp

theorem execReply_mem {w : Word} (h : execReply a w s = .next t) : t.mem = s.mem := by
  refine writeAccess_mem h ?_
  dsimp only
  split <;> simp

theorem execFree_mem {w : Word} (h : execFree a w s = .next t) : t.mem = s.mem := by
  refine writeAccess_mem h ?_
  split <;> simp

theorem execComplete_mem {w : Word} (h : execComplete a w s = .next t) : t.mem = s.mem := by
  refine writeAccess_mem h ?_
  split <;> simp

theorem execTake_mem {w : Word} (h : execTake a w s = .next t) : t.mem = s.mem := by
  refine writeAccess_mem h ?_
  split <;> simp

theorem execRelease_mem {w : Word} (h : execRelease a w s = .next t) : t.mem = s.mem := by
  refine writeAccess_mem h ?_
  split <;> simp

theorem execBindWrite_mem {w : Word} (h : execBindWrite a w s = .next t) : t.mem = s.mem := by
  refine writeAccess_mem h ?_
  dsimp only
  split <;> simp

theorem execBindRead_mem (h : execBindRead a s = .next t) : t.mem = s.mem := by
  refine readAccess_mem h ?_
  split <;> simp

theorem execApertureRead_mem {m : BitVec 9} {lanes : BitVec 4}
    (h : execApertureRead a m lanes s = .next t) : t.mem = s.mem := by
  refine takeAccess_mem h (State.returns_mem ..) fun run => ?_
  dsimp only at run
  split at run
  · cases run; simp
  · split at run
    · cases run; simp
    · cases run

theorem execAttach_mem (h : execAttach a s = .next t) : t.mem = s.mem := by
  refine writeAccess_mem h ?_
  split <;> simp

theorem execDetach_mem (h : execDetach a s = .next t) : t.mem = s.mem := by
  refine writeAccess_mem h ?_
  split <;> simp

theorem execRetire_mem (h : execRetire a s = .next t) : t.mem = s.mem := by
  refine writeAccess_mem h ?_
  split <;> simp

theorem execRetireClaimStep_mem (h : execRetireClaimStep a s = .next t) : t.mem = s.mem := by
  unfold execRetireClaimStep at h
  split at h
  · split at h
    · cases h; simp [retireClaim]
    · cases h; rfl
  · cases h; rfl

theorem execRetireFreeStep_mem (h : execRetireFreeStep a s = .next t) : t.mem = s.mem := by
  unfold execRetireFreeStep at h
  split at h
  · split at h
    · cases h; simp [retireFree]
    · cases h; simp [endRetire]
  · cases h; rfl

theorem execUnknownAgentCommand_mem {code : Byte} (h : execUnknownAgentCommand a code s = .next t) :
    t.mem = s.mem := by
  unfold execUnknownAgentCommand at h
  split at h
  · exact writeAccess_mem h rfl
  · cases h

theorem execInterruptEnable_mem {w : Word} (h : execInterruptEnable a w s = .next t) :
    t.mem = s.mem := by
  refine writeAccess_mem h ?_
  dsimp only
  split <;> rfl

theorem execNotice_mem (h : execNotice a s = .next t) : t.mem = s.mem := by
  refine readAccess_mem h ?_
  dsimp only
  split
  · split <;> simp
  · simp

theorem execUnknownControlCommand_mem {w : Word} (h : execUnknownControlCommand w s = .next t) :
    t.mem = s.mem := by
  unfold execUnknownControlCommand at h
  split at h
  · refine writeAccess_mem h ?_
    split <;> rfl
  · cases h

theorem execSupervisorEvent_mem (h : execSupervisorEvent s = .next t) : t.mem = s.mem := by
  refine readAccess_mem h ?_
  split <;> rfl

theorem execGroupMemberSet_mem {g : GroupId} {w : Word} (h : execGroupMemberSet g w s = .next t) :
    t.mem = s.mem :=
  writeAccess_mem h (configure_mem s fun u hu => by cases hu; rfl)

theorem execAgentConfiguration_mem {w : Word} (h : execAgentConfiguration a w s = .next t) :
    t.mem = s.mem :=
  writeAccess_mem h (configure_map_mem s fun _ => rfl)

theorem execFormat_mem (h : execFormat s = .next t) : t.mem = s.mem := by
  refine writeAccess_mem h ?_
  split
  · rfl
  · rfl
  all_goals split <;> rfl

theorem execFormatCompletion_mem (h : execFormatCompletion s = .next t) : t.mem = s.mem := by
  unfold execFormatCompletion at h
  split at h
  · cases h; simp
  · cases h; rfl

theorem execClearDiscard_mem {q : QueueId} (h : execClearDiscard q s = .next t) : t.mem = s.mem :=
  writeAccess_mem h rfl

theorem execFlushStep_mem {q : QueueId} (h : execFlushStep q s = .next t) : t.mem = s.mem := by
  unfold execFlushStep at h
  split at h
  · split at h
    · cases h; simp [flushDrop]
    · cases h; simp [flushEnd]
  · cases h; rfl

theorem execIgnoredWrite_mem {p : Port} {page : BitVec 4} {offset : BitVec 10} {w : Word}
    (h : execIgnoredWrite p page offset w s = .next t) : t.mem = s.mem := by
  unfold execIgnoredWrite at h
  split at h
  · exact writeAccess_mem h rfl
  · cases h

theorem execPortResetAssert_mem {p : Port} (h : execPortResetAssert p s = .next t) : t.mem = s.mem := by
  unfold execPortResetAssert at h
  split at h
  · cases h; rfl
  · cases h; simp

theorem execTick_mem (h : execTick s = .next t) : t.mem = s.mem := by
  unfold execTick at h
  split at h <;> cases h <;> rfl

theorem execClaimExpiry_mem (h : execClaimExpiry s = .next t) : t.mem = s.mem := by
  unfold execClaimExpiry at h
  split at h
  · cases h; rfl
  · split at h
    · cases h; simp [expireClaim]
    · cases h; rfl

end Commands

/-! ## The bytes of the POSTED frames -/

/-- No byte of the index of a POSTED frame has changed (R129, R134). -/
def PostedBytesKept (s t : State) : Prop :=
  ∀ (f : FrameIdx) (k : Nat), (s.frame f).state = .posted → InIndex s f.val k →
    t.mem.read k = s.mem.read k

theorem PostedBytesKept.of_mem {s t : State} (mem : t.mem = s.mem) : PostedBytesKept s t :=
  fun _ _ _ _ => by rw [mem]

/-- The bytes of one index change at most, and no frame of that index is POSTED. -/
theorem PostedBytesKept.of_index {s t : State} (n : Nat)
    (unposted : ∀ f : FrameIdx, (s.frame f).state = .posted → f.val ≠ n)
    (outside : ∀ k, ¬InIndex s n k → t.mem.read k = s.mem.read k) : PostedBytesKept s t :=
  fun f k posted own => outside k fun other => unposted f posted (own.unique other)

section Writers

variable {s t : State}

/-- A frame that is not POSTED has bytes of its own. -/
theorem PostedBytesKept.of_frame (table : FrameTableLaw s) {g : FrameIdx} (built : g.val < s.built)
    (unposted : (s.frame g).state ≠ .posted)
    (outside : ∀ k, ¬(frameBase s g ≤ k ∧ k < frameBase s g + sizeOfFrame s g) →
      t.mem.read k = s.mem.read k) : PostedBytesKept s t :=
  .of_index g.val (fun _ posted same => unposted (Fin.ext same ▸ posted)) fun k other =>
    outside k (mt (table.inIndex_iff built k).mpr other)

/-- The clear of the frame at the front of the scrub list, complete or abandoned, takes no byte of a POSTED
frame (R16, R17). -/
theorem PostedBytesKept.of_scrub (table : FrameTableLaw s) (references : ReferenceLaw s) {g : FrameIdx}
    (scrub : g ∈ s.scrubList) {which : Nat → Bool}
    (mem : t.mem = s.mem.clearWhere (frameBase s g) (sizeOfFrame s g) which) : PostedBytesKept s t := by
  have state : (s.frame g).state ≠ .posted := by simp [(references.scrub_list g).mp scrub]
  refine .of_frame table (table.scrub_in_table g scrub) state fun k outside => ?_
  rw [mem, Memory.read_clearWhere, if_neg fun inside => outside ⟨inside.1, inside.2.1⟩]

/-- An access keeps the bytes when its run does, and writes none in INIT. -/
theorem PostedBytesKept.of_access {p : Port} {c : HeldAccess} {inInit : State → State} {run : State → Out}
    (h : takeAccess p c inInit run s = .next t) (init : (inInit s).mem = s.mem)
    (runs : run s = .next t → PostedBytesKept s t) : PostedBytesKept s t :=
  takeAccess_keeps h (fun l => .of_mem (State.setHeldAccesses_mem s p l)) (.of_mem init) runs

/-- An aperture write stores bytes of a HELD frame only (R129, R131). -/
theorem execApertureWrite_postedBytesKept {a : AgentId} {m : BitVec 9} {lanes : BitVec 4} {w : Word}
    (memory : MemoryLaw s) (table : FrameTableLaw s) (h : execApertureWrite a m lanes w s = .next t) :
    PostedBytesKept s t := by
  refine .of_access h rfl fun run => ?_
  dsimp only at run
  split at run
  · cases run; exact .of_mem rfl
  · rename_i g reached
    obtain ⟨-, -, -, inside, may⟩ := apertureFrame_eq_some_iff.mp reached
    have held := (mayWrite_iff.mp may).1
    have word := word_le_sizeOfFrame inside
    split at run
    · cases run
      refine .of_frame table (table.in_table g (by simp [held])) (by simp [held]) fun k outside => ?_
      rw [Memory.read_writeLanes _ _ _ _ _ memory.1, wordAddress, if_neg]
      rintro ⟨first, last, -⟩
      exact outside (by omega)
    · cases run

/-- The build clears bytes of the index that it enters only (R156). -/
theorem buildFrame_read {f : FrameIdx} (more : f.val < frameTotal s) {k : Nat}
    (outside : ¬InIndex s f.val k) : (buildFrame f s).mem.read k = s.mem.read k := by
  let u := s.setFrame f
    { Frame.absent ((s.frame f).generation + 1) with pool := poolOfIndex s f.val }
  have pool : (u.frame f).pool = poolOfIndex u f.val := by rw [State.setFrame_frame_self]; rfl
  have mem : (buildFrame f s).mem =
      if (u.pool (poolOfIndex s f.val)).scrub then u.mem.clear (frameBase u f) (sizeOfFrame u f) else u.mem := by
    unfold buildFrame
    dsimp only
    split <;> rfl
  rw [mem]
  split
  · rw [Memory.read_clear, if_neg (mt (inIndex_iff_of_pool pool more k).mpr outside)]
    rfl
  · rfl

theorem execFormatBuildStep_postedBytesKept (table : FrameTableLaw s)
    (h : execFormatBuildStep s = .next t) : PostedBytesKept s t := by
  unfold execFormatBuildStep at h
  split at h
  · rename_i c
    obtain ⟨_, more, low⟩ := c
    cases h
    refine .of_index s.built (fun f posted => ?_) fun k outside => buildFrame_read more outside
    exact (table.in_table f (by simp [posted])).ne
  · cases h; exact .of_mem rfl

theorem execScrubCompletion_postedBytesKept (table : FrameTableLaw s) (references : ReferenceLaw s)
    (h : execScrubCompletion s = .next t) : PostedBytesKept s t := by
  unfold execScrubCompletion at h
  split at h
  · rename_i f rest _ front
    cases h
    have mem : (scrubFrame f s).mem = s.mem.clear (frameBase s f) (sizeOfFrame s f) := by simp [scrubFrame]
    exact .of_scrub table references (front ▸ List.mem_cons_self) mem
  · cases h; exact .of_mem rfl

theorem execRestart_postedBytesKept (table : FrameTableLaw s) (references : ReferenceLaw s)
    (h : execRestart s = .next t) : PostedBytesKept s t := by
  unfold execRestart writeAccess at h
  refine .of_access h rfl fun run => ?_
  cases run
  have mem : ((restartState s).controlAnswer .ok (.command 2) 0).mem = abandonedScrub s := rfl
  unfold abandonedScrub at mem
  split at mem
  · rename_i f rest _ front
    exact .of_scrub table references (front ▸ List.mem_cons_self) mem
  · exact .of_mem mem

/-- No frame is POSTED while initialisation runs (R150). -/
theorem execInitialisationEnd_postedBytesKept (table : FrameTableLaw s)
    (h : execInitialisationEnd s = .next t) : PostedBytesKept s t := by
  unfold execInitialisationEnd at h
  split at h
  · rename_i c
    intro f k posted
    have built := table.in_table f (by simp [posted])
    rw [table.empty (.inl c.1)] at built
    exact absurd built (Nat.not_lt_zero _)
  · cases h; exact .of_mem rfl

/-- Every command but the release of a port's reset line keeps the bytes of the POSTED frames: the aperture
write, the build, the scrub unit, RESTART and the end of initialisation write bytes of other indices, and the
other commands write none. -/
theorem exec_postedBytesKept (memory : MemoryLaw s) (table : FrameTableLaw s) (references : ReferenceLaw s)
    {c : Instr} (other : ∀ p, c ≠ .portResetRelease p) (h : exec c s = .next t) : PostedBytesKept s t := by
  cases c with
  | apertureWrite a m lanes w => exact execApertureWrite_postedBytesKept memory table h
  | formatBuildStep => exact execFormatBuildStep_postedBytesKept table h
  | scrubCompletion => exact execScrubCompletion_postedBytesKept table references h
  | restart => exact execRestart_postedBytesKept table references h
  | initialisationEnd => exact execInitialisationEnd_postedBytesKept table h
  | portResetRelease p => exact absurd rfl (other p)
  | alloc a p => exact .of_mem (execAlloc_mem h)
  | receive a q => exact .of_mem (execReceive_mem h)
  | receiveAny a => exact .of_mem (execReceiveAny_mem h)
  | post a w => exact .of_mem (writeAccess_mem h (postWrite_mem a w s))
  | postToGroup a w => exact .of_mem (writeAccess_mem h (postWrite_mem a w s))
  | reply a w => exact .of_mem (execReply_mem h)
  | free a w => exact .of_mem (execFree_mem h)
  | complete a w => exact .of_mem (execComplete_mem h)
  | take a w => exact .of_mem (execTake_mem h)
  | release a w => exact .of_mem (execRelease_mem h)
  | bindWrite a w => exact .of_mem (execBindWrite_mem h)
  | bindRead a => exact .of_mem (execBindRead_mem h)
  | attach a => exact .of_mem (execAttach_mem h)
  | detach a => exact .of_mem (execDetach_mem h)
  | openQueue r q => exact .of_mem (writeAccess_mem h (queueCommand_mem s fun _ => openChange_quiet))
  | pause r q => exact .of_mem (writeAccess_mem h (queueCommand_mem s fun _ => pauseChange_quiet))
  | resume r q => exact .of_mem (writeAccess_mem h (queueCommand_mem s fun _ => resumeChange_quiet))
  | drain r q => exact .of_mem (writeAccess_mem h (queueCommand_mem s fun _ => drainChange_quiet))
  | flush r q => exact .of_mem (writeAccess_mem h (queueCommand_mem s fun _ => flushChange_quiet))
  | disable q => exact .of_mem (writeAccess_mem h (queueCommand_mem s fun _ => disableChange_quiet))
  | unknownAgentCommand a code => exact .of_mem (execUnknownAgentCommand_mem h)
  | notice a => exact .of_mem (execNotice_mem h)
  | stagingDestination a w => exact .of_mem (writeAccess_mem h (stagingWrite_mem s a _))
  | stagingAttributes a w => exact .of_mem (writeAccess_mem h (stagingWrite_mem s a _))
  | stagingLength a w => exact .of_mem (writeAccess_mem h (stagingWrite_mem s a _))
  | interruptEnable a w => exact .of_mem (execInterruptEnable_mem h)
  | apertureRead a m lanes => exact .of_mem (execApertureRead_mem h)
  | format => exact .of_mem (execFormat_mem h)
  | retire a => exact .of_mem (execRetire_mem h)
  | clearDiscard q => exact .of_mem (execClearDiscard_mem h)
  | unknownControlCommand w => exact .of_mem (execUnknownControlCommand_mem h)
  | supervisorEvent => exact .of_mem (execSupervisorEvent_mem h)
  | poolDefinition p w => exact .of_mem (writeAccess_mem h (configure_map_mem s fun _ => rfl))
  | queueConfiguration q half w => exact .of_mem (writeAccess_mem h (configure_map_mem s fun _ => rfl))
  | agentConfiguration a w => exact .of_mem (execAgentConfiguration_mem h)
  | groupMemberSet g w => exact .of_mem (execGroupMemberSet_mem h)
  | deadLetterSelection w => exact .of_mem (writeAccess_mem h (configure_map_mem s fun _ => rfl))
  | timebasePrescaler w => exact .of_mem (writeAccess_mem h (configure_map_mem s fun _ => rfl))
  | supervisorInterruptEnable w => exact .of_mem (writeAccess_mem h (configure_map_mem s fun _ => rfl))
  | ignoredWrite port page offset w => exact .of_mem (execIgnoredWrite_mem h)
  | porstAssert => cases h; exact .of_mem rfl
  | porstRelease => cases h; exact .of_mem rfl
  | portResetAssert p => exact .of_mem (execPortResetAssert_mem h)
  | tick => exact .of_mem (execTick_mem h)
  | claimExpiry => exact .of_mem (execClaimExpiry_mem h)
  | formatCompletion => exact .of_mem (execFormatCompletion_mem h)
  | flushStep q => exact .of_mem (execFlushStep_mem h)
  | retireClaimStep a => exact .of_mem (execRetireClaimStep_mem h)
  | retireFreeStep a => exact .of_mem (execRetireFreeStep_mem h)

end Writers

/-- Settles O60: a POSTED frame is in the table, and its bytes are those of its index. -/
theorem postedFrameBytesStayFixed : Obligations.PostedFrameBytesStayFixed := by
  intro s t c f k memory table references other posted h first last
  have built : f.val < s.built := table.in_table f (by simp [posted])
  exact exec_postedBytesKept memory table references other h f k posted
    ((table.inIndex_iff built k).mpr ⟨first, last⟩)

end Sys2Proof.Machine

end

/-!
Notices, supervisor events and interrupt lines: what a read of the oldest record answers (R139, R143), the fields of
the words it returns (R167, R168), and the conditions of the lines (R30, R145, R146).
-/

section

-- Taken one after the other, the proofs need one thread (see Tests/Slice0.lean).
set_option Elab.async false

namespace Sys2Proof.Machine

/-! ## Fields read back -/

/-- A field is read back as its value, cut to its width. -/
theorem extract_field_self (lo width x : Nat) (inside : lo + width ≤ 32) :
    (field lo width x).extractLsb' lo width = BitVec.ofNat width x := by
  apply BitVec.eq_of_getLsbD_eq
  intro i below
  have inWord : lo + i < 32 := by omega
  rw [BitVec.getLsbD_extractLsb', getLsbD_field, BitVec.getLsbD_ofNat]
  simp [below, inWord]

theorem toNat_extract_field_self (lo width x : Nat) (inside : lo + width ≤ 32) (fits : x < 2 ^ width) :
    ((field lo width x).extractLsb' lo width).toNat = x := by
  rw [extract_field_self lo width x inside, BitVec.toNat_ofNat, Nat.mod_eq_of_lt fits]

/-- A field has no bit outside its range. -/
theorem extract_field_apart (lo width x lo' width' : Nat) (apart : lo + width ≤ lo' ∨ lo' + width' ≤ lo) :
    (field lo width x).extractLsb' lo' width' = 0#width' := by
  apply BitVec.eq_of_getLsbD_eq
  intro i below
  have outside : ¬(lo ≤ lo' + i ∧ lo' + i - lo < width) := by omega
  rw [BitVec.getLsbD_extractLsb', getLsbD_field, Bool.and_assoc (decide _), ← Bool.decide_and,
    decide_eq_false outside]
  simp

/-- A word that is one field from bit 0 up is that field's value. -/
theorem toNat_field_zero {width x : Nat} (inside : width ≤ 32) (fits : x < 2 ^ width) :
    (field 0 width x).toNat = x := by
  rw [field, BitVec.shiftLeft_zero, BitVec.toNat_setWidth_of_le inside, BitVec.toNat_ofNat,
    Nat.mod_eq_of_lt fits]

/-! ## Words of notices and events (R167, R168) -/

/-- Word 0 of a notice, field by field. -/
theorem Notice.word_fields (n : Notice) (count : n.count ≤ 1024) :
    (n.word.extractLsb' 0 4).toNat = n.kind.number ∧ (n.word.extractLsb' 8 5).toNat = n.queue.val ∧
      (n.word.extractLsb' 16 11).toNat = n.count ∧ (n.word.extractLsb' 28 2).toNat = n.outcome.number := by
  have kind : n.kind.number < 2 ^ 4 := by cases n.kind <;> decide
  have outcome : n.outcome.number < 2 ^ 2 := by cases n.outcome <;> decide
  simp (disch := omega) only [Notice.word, BitVec.extractLsb'_or, extract_field_apart, BitVec.or_zero,
    BitVec.zero_or, toNat_extract_field_self, and_self]

/-- Word 0 of an event that has a kind and a subject, field by field. -/
theorem eventWord_fields {kind subject : Nat} (kindFits : kind < 2 ^ 4) (subjectFits : subject < 2 ^ 5) :
    ((field 0 4 kind ||| field 8 5 subject).extractLsb' 0 4).toNat = kind ∧
      ((field 0 4 kind ||| field 8 5 subject).extractLsb' 8 5).toNat = subject := by
  simp (disch := omega) only [BitVec.extractLsb'_or, extract_field_apart, BitVec.or_zero,
    BitVec.zero_or, toNat_extract_field_self, and_self]

/-- The detail of an agent's retire, field by field. -/
theorem retiredDetail_fields (a : AgentId) {returned dropped freed : Nat} (cause : RetireCause)
    (returnedFits : returned ≤ 64) (droppedFits : dropped ≤ 64) (freedFits : freed ≤ 1024) :
    let detail := (SupervisorEvent.agentRetired a returned dropped freed cause).detail
    (detail.extractLsb' 0 7).toNat = returned ∧ (detail.extractLsb' 8 7).toNat = dropped ∧
      (detail.extractLsb' 16 11).toNat = freed ∧ (detail.extractLsb' 28 2).toNat = cause.number := by
  have causeFits : cause.number < 2 ^ 2 := by cases cause <;> decide
  simp (disch := omega) only [SupervisorEvent.detail, BitVec.extractLsb'_or, extract_field_apart,
    BitVec.or_zero, BitVec.zero_or, toNat_extract_field_self, and_self]

/-- The detail of the other kinds of event is a count of frames or entries, at most 1024. -/
theorem toNat_countDetail {n : Nat} (most : n ≤ 1024) : (field 0 11 n).toNat = n :=
  toNat_field_zero (by decide) (by omega)

/-! ## The reads of the oldest record (R139, R143) -/

theorem readAccess_of_takes {s : State} {p : Port} (takes : PortTakes s p) (c : Instr)
    (run : State → State) : readAccess p c run s = .next (run s) := takeAccess_of_takes takes ..

section Reads

variable {s : State} {a : AgentId}

theorem exec_notice_oldest (takes : PortTakes s (agentPort a)) (online : (s.agent a).state = .online)
    {n : Notice} {rest : List Notice} (oldest : (s.agent a).notices = n :: rest) :
    exec (.notice a) s = .next
      ((s.setAgent a { s.agent a with notices := rest, noticeDetail := n.handle.getD 0 }).returns
        (agentPort a) n.word) := by
  change execNotice a s = _
  rw [execNotice, readAccess_of_takes takes, if_pos online, oldest]
  rfl

theorem exec_notice_empty (takes : PortTakes s (agentPort a)) (online : (s.agent a).state = .online)
    (empty : (s.agent a).notices = []) :
    exec (.notice a) s = .next
      ((s.setAgent a { s.agent a with lost := false, noticeDetail := 0 }).returns (agentPort a) 0) := by
  change execNotice a s = _
  rw [execNotice, readAccess_of_takes takes, if_pos online]
  simp only [empty]
  rfl

theorem exec_notice_not_online (takes : PortTakes s (agentPort a)) (other : (s.agent a).state ≠ .online) :
    exec (.notice a) s = .next (s.returns (agentPort a) 0) := by
  change execNotice a s = _
  rw [execNotice, readAccess_of_takes takes, if_neg other]

theorem exec_supervisorEvent_oldest (takes : PortTakes s .a) {e : SupervisorEvent}
    {rest : List SupervisorEvent} (oldest : s.events = e :: rest) :
    exec .supervisorEvent s = .next ({ s with events := rest, eventDetail := e.detail }.returns .a e.word) := by
  change execSupervisorEvent s = _
  rw [execSupervisorEvent, readAccess_of_takes takes, oldest]

theorem exec_supervisorEvent_empty (takes : PortTakes s .a) (empty : s.events = []) :
    exec .supervisorEvent s = .next ({ s with eventsLost := false, eventDetail := 0 }.returns .a 0) := by
  change execSupervisorEvent s = _
  rw [execSupervisorEvent, readAccess_of_takes takes, empty]

end Reads

/-- Settles O33: each read answers with the record's own words, whose fields are those of R167 and R168. -/
theorem oldestRecordRead : Obligations.OldestRecordRead := by
  intro s
  refine ⟨fun a takes => ⟨fun n rest online oldest count => ?_, exec_notice_empty takes,
    exec_notice_not_online takes⟩, fun takes => ⟨fun e rest oldest => ?_, exec_supervisorEvent_empty takes⟩⟩
  · exact ⟨n.word, exec_notice_oldest takes online oldest, n.word_fields count⟩
  · refine ⟨e.word, e.detail, exec_supervisorEvent_oldest takes oldest, ?_⟩
    cases e with
    | formatDone n => exact ⟨rfl, toNat_countDetail⟩
    | agentRetired a returned dropped freed cause =>
      obtain ⟨kind, subject⟩ := eventWord_fields (kind := 2) (by decide) (a.isLt.trans (by decide))
      exact ⟨kind, subject, retiredDetail_fields a cause⟩
    | flushDone q n =>
      obtain ⟨kind, subject⟩ := eventWord_fields (kind := 3) (by decide) q.isLt
      exact ⟨kind, subject, toNat_countDetail⟩
    | queueClosed q =>
      obtain ⟨kind, subject⟩ := eventWord_fields (kind := 4) (by decide) q.isLt
      exact ⟨kind, subject, rfl⟩
    | poolLow p n =>
      obtain ⟨kind, subject⟩ := eventWord_fields (kind := 5) (by decide) (p.isLt.trans (by decide))
      exact ⟨kind, subject, toNat_countDetail⟩

/-! ## The interrupt lines (R30, R145, R146) -/

theorem ready_iff (s : State) (a : AgentId) (q : QueueId) :
    ready s a q = true ↔ (s.queue q).consumer = a ∧
      ((s.queue q).state = .open ∨ (s.queue q).state = .draining) ∧
      (s.queue q).threshold ≤ queuedCount s q := by
  simp only [ready, Bool.and_eq_true, beq_iff_eq, receivable_iff, decide_eq_true_eq, and_assoc]

theorem anyReady_iff (s : State) (a : AgentId) : anyReady s a = true ↔ ∃ q, ready s a q = true := by
  simp only [anyReady, List.any_eq_true, List.mem_finRange, true_and]

theorem agentLine_iff (s : State) (a : AgentId) :
    agentLine s a = true ↔ (s.agent a).state = .online ∧
      ((s.agent a).notices ≠ [] ∧ (s.agent a).noticeEnable = true ∨
        (s.agent a).readyEnable = true ∧ anyReady s a = true) := by
  simp only [agentLine, Bool.and_eq_true, Bool.or_eq_true, beq_iff_eq, Bool.not_eq_true',
    List.isEmpty_eq_false_iff, and_comm (a := (s.agent a).noticeEnable = true)]

theorem supervisorLine_iff (s : State) :
    supervisorLine s = true ↔ s.events ≠ [] ∧ s.supervisorEnable = true := by
  simp only [supervisorLine, Bool.and_eq_true, Bool.not_eq_true', List.isEmpty_eq_false_iff, and_comm]

/-- Settles O47: a line is its condition, with the ready set read queue by queue. -/
theorem interruptLinesFollowConditions : Obligations.InterruptLinesFollowConditions := by
  intro s a
  refine ⟨?_, supervisorLine_iff s⟩
  rw [agentLine_iff, anyReady_iff]
  simp only [ready_iff, queuedCount]

end Sys2Proof.Machine

end

/-!
The controller: FORMAT with the steps and the completion of its build (R155, R156, R158), RESTART, which clears the
traffic (R159), and power-on reset (R150).
-/

section

-- Taken one after the other, the proofs need one thread (see Tests/Slice0.lean).
set_option Elab.async false

namespace Sys2Proof.Machine

/-! ## FORMAT (R155) -/

/-- Of checks that a list of numbers makes in its order, the first that fails decides. -/
theorem firstRefusal_map_refuseIf {α β : Type} (fails : α → Bool) (r : α → β) (l : List α) :
    firstRefusal (l.map fun x => refuseIf (fails x) (r x)) = (l.find? fails).map r := by
  induction l with
  | nil => rfl
  | cons x l ih =>
    rw [List.map_cons, firstRefusal_refuseIf, List.find?_cons]
    cases fails x
    · exact ih
    · rfl

/-- The layout has a frame and at most 1024, and fits frame memory (R155). -/
abbrev LayoutFits (s : State) : Prop :=
  1 ≤ frameTotal s ∧ frameTotal s ≤ 1024 ∧ layoutBytes s ≤ 131072

/-- The first pool, in the order of their numbers, whose low-water mark is above its count (R155). -/
def firstUnmarked (s : State) : Option PoolId :=
  (List.finRange 4).find? fun p => decide ((s.pool p).count < (s.pool p).lowWater)

/-- The layout decides first, with operand 4; then the marks, with the number of the pool (R155). -/
theorem formatFailure_eq (s : State) :
    formatFailure s = if LayoutFits s then (firstUnmarked s).map Fin.val else some 4 := by
  have frames : Config.maxFrames = 1024 := rfl
  have bytes : Config.memoryBytes = 131072 := rfl
  simp only [formatFailure, firstUnmarked, List.cons_append, List.nil_append, firstRefusal_refuseIf,
    firstRefusal_map_refuseIf, Bool.or_eq_true, beq_iff_eq, decide_eq_true_eq]
  by_cases fits : LayoutFits s
  · obtain ⟨any, few, small⟩ := fits
    rw [if_neg (by omega), if_neg (by omega), if_pos ⟨any, few, small⟩]
  · rw [if_neg fits]
    split_ifs
    · rfl
    · rfl
    · exact absurd (by omega) fits

theorem firstUnmarked_eq_some {s : State} {p : PoolId} (above : (s.pool p).count < (s.pool p).lowWater)
    (earlier : ∀ r < p, (s.pool r).lowWater ≤ (s.pool r).count) : firstUnmarked s = some p := by
  rw [firstUnmarked, List.find?_eq_some_iff_getElem]
  refine ⟨decide_eq_true above, p.val, by simp, by simp, fun j below => ?_⟩
  have within := earlier ⟨j, below.trans p.isLt⟩ below
  simpa using within

theorem firstUnmarked_eq_none {s : State} (marked : ∀ p, (s.pool p).lowWater ≤ (s.pool p).count) :
    firstUnmarked s = none :=
  List.find?_eq_none.mpr fun p _ => by simpa using marked p

section Format

variable {s : State} (takes : PortTakes s .a)
include takes

theorem exec_format_formatting (formatting : s.controller = .formatting) :
    exec .format s = .next (s.controlAnswer .busy (.command 1) 0) := by
  change execFormat s = _
  rw [execFormat, writeAccess_of_takes takes, formatting]

theorem exec_format_running (running : s.controller = .running) :
    exec .format s = .next (s.controlAnswer .wrongState (.command 1) 0) := by
  change execFormat s = _
  rw [execFormat, writeAccess_of_takes takes, running]

theorem exec_format_invalid {operand : Nat} (config : s.controller = .config)
    (failure : formatFailure s = some operand) :
    exec .format s = .next (s.controlAnswer .formatInvalid (.command 1) operand) := by
  change execFormat s = _
  rw [execFormat, writeAccess_of_takes takes, config, failure]

theorem exec_format_valid (config : s.controller = .config) (valid : formatFailure s = none) :
    exec .format s =
      .next ({ s with controller := .formatting, built := 0 }.controlAnswer .ok (.command 1) 0) := by
  change execFormat s = _
  rw [execFormat, writeAccess_of_takes takes, config, valid]

end Format

/-- Settles O42: the controller's state decides first, then the first check that fails. -/
theorem formatChecksDefinitions : Obligations.FormatChecksDefinitions := by
  intro s takes total bytes fits marked
  have layout : LayoutFits s ↔ fits := by
    have frames : frameTotal s = total := sum_pools _
    have size : layoutBytes s = bytes 0 + bytes 1 + bytes 2 + bytes 3 := sum_pools _
    rw [LayoutFits, frames, size]
  refine ⟨exec_format_formatting takes, exec_format_running takes, fun config => ⟨fun bad => ?_, ?_, ?_⟩⟩
  · exact exec_format_invalid takes config (by rw [formatFailure_eq, if_neg (mt layout.mp bad)])
  · intro p good unmarked earlier
    refine exec_format_invalid takes config ?_
    rw [formatFailure_eq, if_pos (layout.mpr good), firstUnmarked_eq_some (not_le.mp unmarked) earlier]
    rfl
  · intro good all
    refine exec_format_valid takes config ?_
    rw [formatFailure_eq, if_pos (layout.mpr good), firstUnmarked_eq_none all]
    rfl

/-! ## The build (R156, R158) -/

/-- An index lies in the range of one pool only. -/
theorem poolOfIndex_eq {s : State} {n : Nat} {p : PoolId} (below : n < frameTotal s)
    (first : poolFirst s p ≤ n) (last : n < poolFirst s p + (s.pool p).count) : poolOfIndex s n = p := by
  obtain ⟨first', last'⟩ := poolOfIndex_range below
  rcases lt_trichotomy (poolOfIndex s n) p with lt | same | gt
  · have := poolFirst_add_le (s := s) lt
    omega
  · exact same
  · have := poolFirst_add_le (s := s) gt
    omega

/-- A build step enters its frame, and in a scrubbing pool clears the bytes that the entered frame has. -/
theorem buildFrame_eq {s : State} {f : FrameIdx} {p : PoolId} (pool : poolOfIndex s f.val = p) :
    buildFrame f s =
      { enterFrame f s with
        mem :=
          if (s.pool p).scrub = true then
            s.mem.clear (frameBase (enterFrame f s) f) (sizeOfFrame (enterFrame f s) f)
          else s.mem } := by
  subst pool
  unfold buildFrame
  dsimp only
  split
  · rename_i scrub
    exact congrArg (fun m => { enterFrame f s with mem := m }) (if_pos scrub).symm
  · rename_i keep
    exact congrArg (fun m => { enterFrame f s with mem := m }) (if_neg keep).symm

theorem exec_formatBuildStep {s : State} {f : FrameIdx} (formatting : s.controller = .formatting)
    (next : f.val = s.built) (more : s.built < frameTotal s) :
    exec .formatBuildStep s = .next (buildFrame f s) := by
  change execFormatBuildStep s = _
  rw [execFormatBuildStep, dif_pos ⟨formatting, more, next ▸ f.isLt⟩]
  congr 3
  exact next.symm

theorem exec_formatCompletion {s : State} (formatting : s.controller = .formatting)
    (all : s.built = frameTotal s) :
    exec .formatCompletion s =
      .next
        (offerEvent (.formatDone (frameTotal s))
          { s with
            activeTotal := frameTotal s
            pools := s.pools.map fun x => { x with armed := true }
            controller := .running }) := by
  change execFormatCompletion s = _
  rw [execFormatCompletion, if_pos ⟨formatting, all.ge⟩]

/-- Settles O43: the step enters the index into the pool whose range it lies in, and the completion follows the last
index. -/
theorem buildEntersFramesAndCompletes : Obligations.BuildEntersFramesAndCompletes := by
  intro s formatting total
  have frames : frameTotal s = total := sum_pools _
  rw [← frames]
  refine ⟨fun f p next more first last => ?_, fun all => ?_⟩
  · have pool : poolOfIndex s f.val = p := poolOfIndex_eq (next ▸ more) first last
    refine ⟨_, exec_formatBuildStep formatting next more, ?_⟩
    rw [buildFrame_eq pool]
    subst pool
    refine ⟨fun g => enterFrame_frame f g s, fun r => enterFrame_freeList f r s, ?_, fun k => ?_, ?_⟩
    · simp only [enterFrame]
    · by_cases scrub : (s.pool (poolOfIndex s f.val)).scrub = true
      · simp only [scrub, if_true, true_and]
        exact Memory.read_clear ..
      · simp only [scrub, false_and, if_false, Bool.false_eq_true]
    · simp only [enterFrame, State.setFrame, State.setFreeList]
  · refine ⟨_, exec_formatCompletion formatting all, ?_⟩
    rw [offerEvent_eq]
    exact ⟨rfl, rfl, fun p => Table.get_map .., eventOffered_of_eq rfl rfl, rfl⟩

/-! ## RESTART (R159) -/

theorem exec_restart {s : State} (takes : PortTakes s .a) :
    exec .restart s = .next ((restartState s).controlAnswer .ok (.command 2) 0) := by
  change execRestart s = _
  rw [execRestart, writeAccess_of_takes takes]

/-- An abandoned clear has cleared bytes of the front frame of the scrub list at most (R17, R20). -/
theorem abandonedScrub_read (s : State) (k : Nat) :
    (abandonedScrub s).read k = s.mem.read k ∨
      (abandonedScrub s).read k = 0 ∧ s.controller = .running ∧
        ∃ f ∈ s.scrubList.head?, frameBase s f ≤ k ∧ k < frameBase s f + sizeOfFrame s f := by
  unfold abandonedScrub
  split
  · rename_i f rest running front
    rw [Memory.read_clearWhere]
    split
    · rename_i cleared
      obtain ⟨from', to', -⟩ := cleared
      exact .inr ⟨rfl, running, f, by simp [front], from', to'⟩
    · exact .inl rfl
  · exact .inl rfl

/-- Settles O45: each table of the state after RESTART is the old one with every record restarted. -/
theorem restartClearsTraffic : Obligations.RestartClearsTraffic := by
  intro s takes
  refine ⟨_, exec_restart takes, rfl, rfl, rfl, fun f => ?_, fun p => ?_, rfl, abandonedScrub_read s,
    fun e => ?_, ?_, fun q => ?_, fun a => ?_, rfl, rfl, rfl, rfl, rfl, rfl, rfl⟩
  · have frame : (restartState s).frame f = Frame.absent (s.frame f).generation := Table.get_map ..
    rw [State.controlAnswer_frame, frame]
    rfl
  · exact Table.get_fill ..
  · have entry : (restartState s).entry e = (s.entry e).restarted := Table.get_map ..
    rw [State.controlAnswer_entry, entry]
    exact ⟨rfl, rfl, rfl⟩
  · rw [State.controlAnswer_freeEntries, (restartState_emptied s).freeEntries]
  · exact Table.get_map ..
  · exact Table.get_map ..

/-! ## Power-on reset (R150) -/

/-- The part after PORST# has been asserted and released and initialisation has ended: its power-on values, with
the levels of the reset lines, the data lines, the count of draws and the commands waiting kept (log entries 7
and 20). -/
def poweredOn (s : State) : State :=
  { State.reset with
    rstA := s.rstA, rstB := s.rstB, dataA := s.dataA, dataB := s.dataB, draws := s.draws, pending := s.pending }

/-- The part while its controller is INIT: PORST# as given, frame memory not yet clear (R150). -/
def initialising (s : State) (porst : Bool) : State :=
  { poweredOn s with controller := .init, porst := porst, mem := s.mem }

theorem exec_porstAssert (s : State) : exec .porstAssert s = .next (initialising s true) := by
  change execPorstAssert s = _
  simp only [execPorstAssert, initialising, poweredOn]

theorem exec_porstRelease (s : State) :
    exec .porstRelease (initialising s true) = .next (initialising s false) := by
  change execPorstRelease _ = _
  simp only [execPorstRelease, initialising]

theorem exec_initialisationEnd (s : State) :
    exec .initialisationEnd (initialising s false) = .next (poweredOn s) := by
  change execInitialisationEnd _ = _
  rw [execInitialisationEnd, if_pos ⟨rfl, rfl⟩]
  simp only [initialising, poweredOn, State.reset]

/-- Settles O3: the three commands end in `poweredOn s`, each of whose tables is filled with one record. -/
theorem powerOnResetsEveryBlock : Obligations.PowerOnResetsEveryBlock := by
  intro s
  refine ⟨_, _, _, exec_porstAssert s, rfl, rfl, exec_porstRelease s, rfl, ?_, rfl, exec_initialisationEnd s,
    rfl, rfl, fun _ => rfl, rfl, rfl, rfl, fun p => Table.get_fill .., fun p => Table.get_fill .., fun f => ?_,
    fun q => reset_queue q, fun e => ?_, ?_, fun g => Table.get_fill .., rfl, fun a => reset_agent a,
    rfl, rfl, rfl, rfl, rfl, rfl, rfl, rfl, rfl, rfl, rfl, rfl, rfl, rfl, rfl, ?_⟩
  · simp only [initialising]
  · have frame : (poweredOn s).frame f = Frame.absent 0 := Table.get_fill ..
    exact congrArg Frame.generation frame
  · exact congrArg Entry.place (reset_entry e)
  · simp only [poweredOn, reset_emptied.freeEntries, List.Perm.refl]
  · simp only [poweredOn, State.reset]

end Sys2Proof.Machine

end

/-!
What every command leaves of the queue of waiting commands, and that it stops on none of its paths: each shared
operation leaves the waiting commands as they are, each command that spells one of its row answers a next state
(`exec_completes_of_not_release`), and so does the run of the accesses that a port held (R118, R163).
-/

section

-- Taken one after the other, the proofs need one thread (see Tests/Slice0.lean).
set_option Elab.async false

namespace Sys2Proof.Machine

/-! ## The waiting commands after a shared operation -/

section Pending

variable (s : State) (a : AgentId) (p : PoolId) (f : FrameIdx) (q : QueueId) (e : EntryId)

@[simp] theorem offerNotice_pending (n : Notice) : (offerNotice a n s).pending = s.pending := by
  rw [offerNotice_eq, State.setAgent_pending]

@[simp] theorem offerEvent_pending (x : SupervisorEvent) : (offerEvent x s).pending = s.pending := by
  rw [offerEvent_eq]

@[simp] theorem report_pending (r : Option Requester) (n : Notice) (x : SupervisorEvent) :
    (report r n x s).pending = s.pending := by
  rcases r with _ | ⟨b⟩ | _
  · rfl
  · exact offerNotice_pending ..
  · exact offerEvent_pending ..

@[simp] theorem unbind_pending : (unbind a f s).pending = s.pending := by
  rw [unbind_eq, State.setAgent_pending]

@[simp] theorem unbindWithoutClaim_pending : (unbindWithoutClaim a f s).pending = s.pending := by
  rw [unbindWithoutClaim_eq, State.setAgent_pending]

/-! ### Frames -/

@[simp] theorem lowWaterTest_pending : (lowWaterTest p s).pending = s.pending := by
  unfold lowWaterTest
  dsimp only
  split
  · rw [offerEvent_pending, State.setPool_pending]
  · rfl

@[simp] theorem reArmTest_pending : (reArmTest p s).pending = s.pending := by
  unfold reArmTest
  split
  · exact State.setPool_pending ..
  · rfl

@[simp] theorem freePath_pending : (freePath f s).pending = s.pending := by
  rw [freePath_eq]

@[simp] theorem dropReference_pending : (dropReference f s).pending = s.pending := by
  rw [dropReference_eq]
  split
  · rw [freePath_pending, State.setFrame_pending]
  · rfl

@[simp] theorem giveBack_pending : (giveBack a f s).pending = s.pending :=
  freePath_pending ..

@[simp] theorem allocFrame_pending : (allocFrame a f s).pending = s.pending := rfl

@[simp] theorem buildFrame_pending : (buildFrame f s).pending = s.pending := by
  rcases buildFrame_cases f s with same | ⟨_, _, cleared⟩
  · rw [same]; rfl
  · rw [cleared]; rfl

@[simp] theorem scrubFrame_pending : (scrubFrame f s).pending = s.pending :=
  reArmTest_pending ..

/-! ### Entries and queues -/

@[simp] theorem createEntry_pending (urgent : Bool) : (createEntry f urgent q s).pending = s.pending := by
  unfold createEntry
  split <;> rfl

@[simp] theorem createEntries_pending (urgent : Bool) (qs : List QueueId) :
    (qs.foldl (fun s q => createEntry f urgent q s) s).pending = s.pending := by
  induction qs generalizing s with
  | nil => rfl
  | cons q qs ih => rw [List.foldl_cons, ih, createEntry_pending]

@[simp] theorem postFrame_pending (qs : List QueueId) : (postFrame a f qs s).pending = s.pending :=
  (unbind_pending ..).trans (createEntries_pending ..)

@[simp] theorem claimEntry_pending : (claimEntry a q e s).pending = s.pending := by
  rw [claimEntry_eq]

@[simp] theorem freeEntry_pending : (freeEntry e s).pending = s.pending := rfl

@[simp] theorem leaveDeadlines_pending : (leaveDeadlines e s).pending = s.pending := rfl

@[simp] theorem endClaim_pending : (endClaim a e s).pending = s.pending := rfl

@[simp] theorem drainCompletion_pending : (drainCompletion q s).pending = s.pending := by
  rw [drainCompletion_eq]
  split
  · rw [report_pending, State.setQueue_pending]
  · rfl

@[simp] theorem returnEntry_pending (n : Nat) : (returnEntry e n s).pending = s.pending := rfl

@[simp] theorem dropIntoFlush_pending : (dropIntoFlush e s).pending = s.pending :=
  dropReference_pending ..

@[simp] theorem dropWithNotice_pending : (dropWithNotice e s).pending = s.pending := by
  simp [dropWithNotice]

@[simp] theorem moveEntry_pending (d : QueueId) : (moveEntry e d s).pending = s.pending := by
  simp [moveEntry]

@[simp] theorem deadLetterPath_pending : (deadLetterPath e s).pending = s.pending := by
  unfold deadLetterPath
  split
  · exact moveEntry_pending ..
  · exact dropWithNotice_pending ..

@[simp] theorem redeliver_pending (r : ReturnReason) : (redeliver e r s).pending = s.pending := by
  unfold redeliver
  split
  · exact dropIntoFlush_pending ..
  · exact dropWithNotice_pending ..
  · exact dropWithNotice_pending ..
  all_goals
    split
    · exact returnEntry_pending ..
    all_goals
      split
      · exact returnEntry_pending ..
      · exact deadLetterPath_pending ..

/-! ### The ends of a claim and of a retire -/

@[simp] theorem completeClaim_pending : (completeClaim a e s).pending = s.pending := by
  simp [completeClaim]

@[simp] theorem takeClaim_pending : (takeClaim a e s).pending = s.pending := by
  simp [takeClaim, joinHeld]

@[simp] theorem releaseClaim_pending : (releaseClaim a e s).pending = s.pending := by
  simp [releaseClaim]

@[simp] theorem expireClaim_pending : (expireClaim a e s).pending = s.pending := by
  simp [expireClaim]

@[simp] theorem retireForPort_pending : (retireForPort s a).pending = s.pending := by
  unfold retireForPort
  split <;> rfl

theorem retireForPort_foldl_pending (l : List AgentId) :
    (l.foldl retireForPort s).pending = s.pending := by
  induction l generalizing s with
  | nil => rfl
  | cons a l ih => rw [List.foldl_cons, ih, retireForPort_pending]

@[simp] theorem retireClaim_pending : (retireClaim a e s).pending = s.pending :=
  redeliver_pending ..

@[simp] theorem retireFree_pending : (retireFree a f s).pending = s.pending :=
  giveBack_pending ..

@[simp] theorem endRetire_pending : (endRetire a s).pending = s.pending :=
  offerEvent_pending ..

@[simp] theorem flushDrop_pending : (flushDrop q e s).pending = s.pending :=
  dropReference_pending ..

@[simp] theorem flushEnd_pending : (flushEnd q s).pending = s.pending :=
  report_pending ..

/-! ### The bodies of accesses -/

@[simp] theorem postWrite_pending (h : Word) : (postWrite a h s).pending = s.pending := by
  unfold postWrite
  split
  · exact State.answer_pending ..
  · rw [State.answer_pending, postFrame_pending]

@[simp] theorem acceptReceive_pending (k : Action) : (acceptReceive a q e k s).pending = s.pending := by
  simp [acceptReceive]

@[simp] theorem refuseReceive_pending (c : ResultCode) (k : Action) (w : Word) :
    (refuseReceive a c k w s).pending = s.pending := by
  simp [refuseReceive]

@[simp] theorem stagingWrite_pending (change : Staging → Staging) :
    (stagingWrite a change s).pending = s.pending := by
  unfold stagingWrite
  dsimp only
  split <;> rfl

@[simp] theorem plainRead_pending (port : Port) (x : Place) : (plainRead port x s).pending = s.pending := by
  unfold plainRead
  split
  · exact State.setHeldAccesses_pending ..
  · exact State.returns_pending ..

variable {s q}

/-- A queue command leaves the waiting commands as they are when its transition does. -/
theorem queueCommand_pending {r : Requester} {k : Action} {code : Byte} {c : ResultCode}
    {transition : State → Option State} (h : ∀ t ∈ transition s, t.pending = s.pending) :
    (queueCommand r q k code c transition s).pending = s.pending := by
  unfold queueCommand
  split
  · split
    · rfl
    · split
      · exact (State.answer_pending ..).trans (h _ ‹_›)
      · rfl
  · split
    · split
      · exact (State.controlAnswer_pending ..).trans (h _ ‹_›)
      · rfl
    · rfl

theorem openChange_pending {t : State} (h : t ∈ openChange q s) : t.pending = s.pending := by
  unfold openChange at h
  split at h <;> cases h <;> rfl

theorem pauseChange_pending {t : State} (h : t ∈ pauseChange q s) : t.pending = s.pending := by
  unfold pauseChange at h
  split at h <;> cases h; rfl

theorem resumeChange_pending {t : State} (h : t ∈ resumeChange q s) : t.pending = s.pending := by
  unfold resumeChange at h
  split at h <;> cases h; rfl

theorem drainChange_pending {r : Requester} {t : State} (h : t ∈ drainChange r q s) :
    t.pending = s.pending := by
  unfold drainChange at h
  split at h
  case h_1 | h_2 =>
    split at h <;> cases h
    · exact report_pending ..
    · rfl
  all_goals cases h

theorem flushChange_pending {r : Requester} {t : State} (h : t ∈ flushChange r q s) :
    t.pending = s.pending := by
  unfold flushChange at h
  split at h <;> cases h <;> rfl

theorem disableChange_pending {t : State} (h : t ∈ disableChange q s) : t.pending = s.pending := by
  unfold disableChange at h
  split at h
  · split at h <;> cases h; rfl
  all_goals cases h

/-- A configuration write leaves the waiting commands as they are when the change of its register does. -/
theorem configure_pending {offset n : Nat} {refusal : Option ControlCode} {change : Option State}
    (h : ∀ t ∈ change, t.pending = s.pending) :
    (configure offset n refusal change s).pending = s.pending := by
  unfold configure
  dsimp only
  split
  · rfl
  · rfl
  · exact (State.controlAnswer_pending ..).trans (h _ rfl)

/-- The same, for a register whose value decides the change. -/
theorem configure_map_pending {α : Type} {offset n : Nat} {refusal : Option ControlCode}
    {value : Option α} {change : α → State} (h : ∀ x, (change x).pending = s.pending) :
    (configure offset n refusal (value.map change) s).pending = s.pending :=
  configure_pending fun t ht => by
    obtain ⟨x, -, rfl⟩ := Option.map_eq_some_iff.mp ht
    exact h x

end Pending

/-! ## Commands that complete -/

/-- The answer is a next state with the waiting commands of `s`: no fault and no refusal (R163). -/
def CompletesFrom (s : State) (o : Out) : Prop := ∃ t, o = .next t ∧ t.pending = s.pending

theorem CompletesFrom.next {s t : State} (pending : t.pending = s.pending) : CompletesFrom s (.next t) :=
  ⟨t, rfl, pending⟩

theorem CompletesFrom.refl (s : State) : CompletesFrom s (.next s) := .next rfl

/-- An access completes when what it does in INIT leaves the waiting commands as they are and its run completes. -/
theorem takeAccess_completes {p : Port} {c : HeldAccess} {inInit : State → State} {run : State → Out}
    {s : State} (init : (inInit s).pending = s.pending) (runs : CompletesFrom s (run s)) :
    CompletesFrom s (takeAccess p c inInit run s) := by
  obtain ⟨-, held⟩ | ⟨-, -, inInit⟩ | ⟨-, run⟩ :=
    takeAccess_cases (p := p) (c := c) (inInit := inInit) (run := run) (s := s) rfl
  · exact held ▸ .next (State.setHeldAccesses_pending ..)
  · exact inInit ▸ .next init
  · exact run ▸ runs

theorem readAccess_completes {p : Port} {c : Instr} {run : State → State} {s : State}
    (pending : (run s).pending = s.pending) : CompletesFrom s (readAccess p c run s) :=
  takeAccess_completes (State.returns_pending ..) (.next pending)

theorem writeAccess_completes {p : Port} {c : Instr} {run : State → State} {s : State}
    (pending : (run s).pending = s.pending) : CompletesFrom s (writeAccess p c run s) :=
  takeAccess_completes rfl (.next pending)

section Commands

variable {s : State} {a : AgentId} {q : QueueId} {w : Word}

/-! ### Frames and posting -/

theorem execAlloc_completes {p : PoolId} : CompletesFrom s (execAlloc a p s) := by
  refine readAccess_completes ?_
  split <;> simp

theorem execFree_completes : CompletesFrom s (execFree a w s) := by
  refine writeAccess_completes ?_
  split <;> simp

theorem execReply_completes : CompletesFrom s (execReply a w s) := by
  refine writeAccess_completes ?_
  dsimp only
  split <;> simp

/-! ### Receiving -/

theorem execReceive_completes : CompletesFrom s (execReceive a q s) := by
  refine readAccess_completes ?_
  split
  · exact acceptReceive_pending ..
  · exact refuseReceive_pending ..

theorem execReceiveAny_completes : CompletesFrom s (execReceiveAny a s) := by
  refine readAccess_completes ?_
  dsimp only
  split
  · split
    · exact acceptReceive_pending ..
    · exact refuseReceive_pending ..
  · exact refuseReceive_pending ..

theorem execComplete_completes : CompletesFrom s (execComplete a w s) := by
  refine writeAccess_completes ?_
  split <;> simp

theorem execTake_completes : CompletesFrom s (execTake a w s) := by
  refine writeAccess_completes ?_
  split <;> simp

theorem execRelease_completes : CompletesFrom s (execRelease a w s) := by
  refine writeAccess_completes ?_
  split <;> simp

/-! ### The aperture -/

theorem execBindWrite_completes : CompletesFrom s (execBindWrite a w s) := by
  refine writeAccess_completes ?_
  dsimp only
  split <;> rfl

theorem execBindRead_completes : CompletesFrom s (execBindRead a s) := by
  refine readAccess_completes ?_
  dsimp only
  split <;> simp

/-- A word that an aperture access reaches lies in frame memory: the bound frame is in use, for the agent has a
right over it (R129), and a frame in use is a frame of the table (R2). -/
theorem apertureFrame_fits {m : BitVec 9} {f : FrameIdx} {right : State → AgentId → FrameIdx → Bool}
    (table : FrameTableLaw s) (used : right s a f = true → (s.frame f).state ≠ .free)
    (reached : apertureFrame s a m right = some f) : wordAddress s f m + 4 ≤ Config.memoryBytes := by
  obtain ⟨_, -, -, inside, may⟩ := apertureFrame_eq_some_iff.mp reached
  exact table.word_fits (used may) inside

theorem used_of_mayRead {f : FrameIdx} (may : mayRead s a f = true) : (s.frame f).state ≠ .free := by
  rcases mayRead_iff.mp may with ⟨held, -⟩ | ⟨posted, -⟩
  · simp [held]
  · simp [posted]

theorem used_of_mayWrite {f : FrameIdx} (may : mayWrite s a f = true) : (s.frame f).state ≠ .free := by
  simp [(mayWrite_iff.mp may).1]

theorem execApertureRead_completes {m : BitVec 9} {lanes : BitVec 4} (table : FrameTableLaw s) :
    CompletesFrom s (execApertureRead a m lanes s) := by
  refine takeAccess_completes (State.returns_pending ..) ?_
  split
  · exact .next (State.returns_pending ..)
  · rename_i reached
    dsimp only
    rw [if_pos (apertureFrame_fits table used_of_mayRead reached)]
    exact .next (State.returns_pending ..)

theorem execApertureWrite_completes {m : BitVec 9} {lanes : BitVec 4} (table : FrameTableLaw s) :
    CompletesFrom s (execApertureWrite a m lanes w s) := by
  refine takeAccess_completes rfl ?_
  split
  · exact .next (State.answer_pending ..)
  · rename_i reached
    dsimp only
    rw [if_pos (apertureFrame_fits table used_of_mayWrite reached)]
    exact .next rfl

/-! ### Agents -/

theorem execAttach_completes : CompletesFrom s (execAttach a s) := by
  refine writeAccess_completes ?_
  split <;> rfl

theorem execDetach_completes : CompletesFrom s (execDetach a s) := by
  refine writeAccess_completes ?_
  split <;> rfl

theorem execRetire_completes : CompletesFrom s (execRetire a s) := by
  refine writeAccess_completes ?_
  split <;> rfl

theorem execInterruptEnable_completes : CompletesFrom s (execInterruptEnable a w s) := by
  refine writeAccess_completes ?_
  dsimp only
  split <;> rfl

theorem execNotice_completes : CompletesFrom s (execNotice a s) := by
  refine readAccess_completes ?_
  dsimp only
  split
  · split <;> simp
  · exact State.returns_pending ..

theorem execUnknownAgentCommand_completes {code : Byte} (unknown : (agentCommand a code 0).isNone = true) :
    CompletesFrom s (execUnknownAgentCommand a code s) := by
  rw [execUnknownAgentCommand, if_pos unknown]
  exact writeAccess_completes rfl

theorem execRetireClaimStep_completes : CompletesFrom s (execRetireClaimStep a s) := by
  unfold execRetireClaimStep
  split
  · split
    · exact .next (retireClaim_pending ..)
    · exact .refl s
  · exact .refl s

theorem execRetireFreeStep_completes : CompletesFrom s (execRetireFreeStep a s) := by
  unfold execRetireFreeStep
  split
  · split
    · exact .next (retireFree_pending ..)
    · exact .next (endRetire_pending ..)
  · exact .refl s

/-! ### The control page and the controller -/

theorem execUnknownControlCommand_completes (unknown : (controlCommandOf w).isNone = true) :
    CompletesFrom s (execUnknownControlCommand w s) := by
  rw [execUnknownControlCommand, if_pos unknown]
  refine writeAccess_completes ?_
  split <;> rfl

theorem execSupervisorEvent_completes : CompletesFrom s (execSupervisorEvent s) := by
  refine readAccess_completes ?_
  split <;> rfl

theorem execAgentConfiguration_completes : CompletesFrom s (execAgentConfiguration a w s) :=
  writeAccess_completes (configure_map_pending fun _ => State.setAgent_pending ..)

theorem execClearDiscard_completes : CompletesFrom s (execClearDiscard q s) :=
  writeAccess_completes (State.controlAnswer_pending ..)

theorem execRestart_completes : CompletesFrom s (execRestart s) :=
  writeAccess_completes (State.controlAnswer_pending ..)

theorem execFormat_completes : CompletesFrom s (execFormat s) := by
  refine writeAccess_completes ?_
  split
  case h_3 | h_4 => split <;> rfl
  all_goals rfl

theorem execFormatBuildStep_completes : CompletesFrom s (execFormatBuildStep s) := by
  unfold execFormatBuildStep
  split
  · exact .next (buildFrame_pending ..)
  · exact .refl s

theorem execFormatCompletion_completes : CompletesFrom s (execFormatCompletion s) := by
  unfold execFormatCompletion
  split
  · exact .next (offerEvent_pending ..)
  · exact .refl s

theorem execScrubCompletion_completes : CompletesFrom s (execScrubCompletion s) := by
  unfold execScrubCompletion
  split
  · exact .next (scrubFrame_pending ..)
  · exact .refl s

theorem execFlushStep_completes : CompletesFrom s (execFlushStep q s) := by
  unfold execFlushStep
  split
  · split
    · exact .next (flushDrop_pending ..)
    · exact .next (flushEnd_pending ..)
  · exact .refl s

/-! ### Pins and the timer -/

theorem execIgnoredWrite_completes {port : Port} {page : BitVec 4} {offset : BitVec 10}
    (ignored : ignoresWrites (place port page offset) = true) :
    CompletesFrom s (execIgnoredWrite port page offset w s) := by
  rw [execIgnoredWrite, if_pos ignored]
  exact writeAccess_completes rfl

theorem execInitialisationEnd_completes : CompletesFrom s (execInitialisationEnd s) := by
  unfold execInitialisationEnd
  split
  · exact .next rfl
  · exact .refl s

theorem execPortResetAssert_completes {p : Port} : CompletesFrom s (execPortResetAssert p s) := by
  unfold execPortResetAssert
  split
  · exact .refl s
  · exact .next ((retireForPort_foldl_pending ..).trans (State.setResetLine_pending ..))

theorem execTick_completes : CompletesFrom s (execTick s) := by
  refine .next ?_
  split <;> rfl

theorem execClaimExpiry_completes : CompletesFrom s (execClaimExpiry s) := by
  unfold execClaimExpiry
  split
  · exact .refl s
  · split
    · exact .next (expireClaim_pending ..)
    · exact .next (leaveDeadlines_pending ..)

end Commands

/-! ## Every command -/

/-- Every command but the release of a port's reset line, which takes other commands, completes: an aperture access
because the word that it reaches lies in frame memory, an unknown command or ignored write because it is one. -/
theorem exec_completes_of_not_release {c : Instr} (hc : ∀ p, c ≠ .portResetRelease p) {s : State}
    (table : FrameTableLaw s) (wellFormed : WellFormed c = true) : CompletesFrom s (exec c s) := by
  cases c with
  | alloc a p => exact execAlloc_completes
  | receive a q => exact execReceive_completes
  | receiveAny a => exact execReceiveAny_completes
  | post a w => exact writeAccess_completes (postWrite_pending ..)
  | postToGroup a w => exact writeAccess_completes (postWrite_pending ..)
  | reply a w => exact execReply_completes
  | free a w => exact execFree_completes
  | complete a w => exact execComplete_completes
  | take a w => exact execTake_completes
  | release a w => exact execRelease_completes
  | bindWrite a w => exact execBindWrite_completes
  | bindRead a => exact execBindRead_completes
  | attach a => exact execAttach_completes
  | detach a => exact execDetach_completes
  | openQueue r q => exact writeAccess_completes (queueCommand_pending fun _ => openChange_pending)
  | pause r q => exact writeAccess_completes (queueCommand_pending fun _ => pauseChange_pending)
  | resume r q => exact writeAccess_completes (queueCommand_pending fun _ => resumeChange_pending)
  | drain r q => exact writeAccess_completes (queueCommand_pending fun _ => drainChange_pending)
  | flush r q => exact writeAccess_completes (queueCommand_pending fun _ => flushChange_pending)
  | unknownAgentCommand a code => exact execUnknownAgentCommand_completes wellFormed
  | notice a => exact execNotice_completes
  | stagingDestination a w => exact writeAccess_completes (stagingWrite_pending ..)
  | stagingAttributes a w => exact writeAccess_completes (stagingWrite_pending ..)
  | stagingLength a w => exact writeAccess_completes (stagingWrite_pending ..)
  | interruptEnable a w => exact execInterruptEnable_completes
  | apertureRead a m lanes => exact execApertureRead_completes table
  | apertureWrite a m lanes w => exact execApertureWrite_completes table
  | format => exact execFormat_completes
  | restart => exact execRestart_completes
  | disable q => exact writeAccess_completes (queueCommand_pending fun _ => disableChange_pending)
  | retire a => exact execRetire_completes
  | clearDiscard q => exact execClearDiscard_completes
  | unknownControlCommand w => exact execUnknownControlCommand_completes wellFormed
  | supervisorEvent => exact execSupervisorEvent_completes
  | poolDefinition p w => exact writeAccess_completes (configure_map_pending fun _ => rfl)
  | queueConfiguration q half w => exact writeAccess_completes (configure_map_pending fun _ => rfl)
  | agentConfiguration a w => exact execAgentConfiguration_completes
  | groupMemberSet g w => exact writeAccess_completes rfl
  | deadLetterSelection w => exact writeAccess_completes (configure_map_pending fun _ => rfl)
  | timebasePrescaler w => exact writeAccess_completes (configure_map_pending fun _ => rfl)
  | supervisorInterruptEnable w => exact writeAccess_completes (configure_map_pending fun _ => rfl)
  | ignoredWrite p page offset w => exact execIgnoredWrite_completes wellFormed
  | porstAssert => exact .next rfl
  | porstRelease => exact .next rfl
  | initialisationEnd => exact execInitialisationEnd_completes
  | portResetAssert p => exact execPortResetAssert_completes
  | portResetRelease p => exact absurd rfl (hc p)
  | tick => exact execTick_completes
  | claimExpiry => exact execClaimExpiry_completes
  | formatBuildStep => exact execFormatBuildStep_completes
  | formatCompletion => exact execFormatCompletion_completes
  | scrubCompletion => exact execScrubCompletion_completes
  | flushStep q => exact execFlushStep_completes
  | retireClaimStep a => exact execRetireClaimStep_completes
  | retireFreeStep a => exact execRetireFreeStep_completes

/-- A held access completes: of commands only accesses are held, and none of them releases a reset line (R118). -/
theorem takeHeld_completes {p : Port} {c : HeldAccess} {s : State} (table : FrameTableLaw s)
    (own : ∀ i, c = .command i → WellFormed i = true ∧ accessPort i = some p) :
    CompletesFrom s (takeHeld p c s) := by
  cases c with
  | read x => exact .next (plainRead_pending ..)
  | command i =>
    obtain ⟨wellFormed, port⟩ := own i rfl
    rw [takeHeld, takeCommand_eq_exec (by simp [port])]
    exact exec_completes_of_not_release (fun _ release => by simp [release, accessPort] at port) table wellFormed

/-- Held accesses complete one after the other: each leaves the law of the frame table to the next. -/
theorem takeHeldAll_completes {p : Port} : ∀ {l : List HeldAccess} {s : State}, FrameTableLaw s →
    (∀ i, .command i ∈ l → WellFormed i = true ∧ accessPort i = some p) →
    CompletesFrom s (takeHeldAll p l s)
  | [], s, _, _ => .refl s
  | c :: l, s, table, own => by
    obtain ⟨t, first, pending⟩ :=
      takeHeld_completes (c := c) table fun i same => own i (same ▸ List.mem_cons_self)
    have tableAfter : FrameTableLaw t :=
      (takeHeld_moves first).keeps (fun _ _ => Move.keeps_frameTableLaw) table
    obtain ⟨u, rest, pendingAfter⟩ :=
      takeHeldAll_completes tableAfter fun i hi => own i (List.mem_cons_of_mem _ hi)
    rw [takeHeldAll, first]
    exact ⟨u, rest, pendingAfter.trans pending⟩

/-- The release of a port's reset line completes, with every access that the port held. -/
theorem execPortResetRelease_completes {p : Port} {s : State} (table : FrameTableLaw s) (held : HeldLaw s) :
    CompletesFrom s (execPortResetRelease p s) := by
  have released : Quiet s ((s.setResetLine p false).setHeldAccesses p []) :=
    (Quiet.setResetLine ..).trans (.setHeldAccesses ..)
  obtain ⟨t, run, pending⟩ :=
    takeHeldAll_completes ((Move.quiet released).keeps_frameTableLaw table) (held p).2
  rw [State.setHeldAccesses_pending, State.setResetLine_pending] at pending
  exact ⟨t, run, pending⟩

/-- Settles O59: the release of a port's reset line runs the accesses held, and every other command completes by
itself (`exec_completes_of_not_release`). -/
theorem everyCommandCompletes : Obligations.EveryCommandCompletes := by
  intro s c table held wellFormed
  by_cases hc : ∃ p, c = .portResetRelease p
  · obtain ⟨p, rfl⟩ := hc
    exact execPortResetRelease_completes table held
  · exact exec_completes_of_not_release (fun p release => hc ⟨p, release⟩) table wellFormed

/-! ## The step -/

/-- The command at the front of the queue is taken whole (R163). -/
theorem step_of_front {s : State} {c : Instr} {rest : List Instr} (front : s.pending = c :: rest) :
    step s = exec c { s with pending := rest } := by
  rw [step, front]

/-- Settles O1. -/
theorem stepRunsFrontCommand : Obligations.StepRunsFrontCommand :=
  fun _ _ _ => step_of_front rfl

end Sys2Proof.Machine

end

/-!
The law of the entries, from the moves of a step; and the laws of the queues and of their depth, from what one command
can do to the queue records and to the entries of each queue (`QueueChange`). A queue's entries, queued or claimed, are
the entries in use whose home it is (`homeCount`), and an entry on its way from one list to another still counts for
its home (`DepthLawWith`).
-/

section

-- Taken one after the other, the proofs need one thread (see Tests/Slice0.lean).
set_option Elab.async false

namespace Sys2Proof.Machine

/-! ## The law of the entries -/

/-- What the law of the entries needs of the agents, to be kept by a chain of moves. -/
structure EntriesKept (s : State) : Prop where
  idle : OfflineIdle s
  entries : EntryLaw s

theorem Move.keeps_entries {s t : State} (m : Move s t) (h : EntriesKept s) : EntriesKept t where
  idle := m.keeps_offlineIdle h.idle
  entries := m.keeps_entryLaw h.idle h.entries

theorem Moves.keeps_entries {s t : State} (m : Moves s t) (h : EntriesKept s) : EntriesKept t :=
  m.keeps (fun _ _ => Move.keeps_entries) h

/-- Settles O55: every move of a step keeps the entries, an OFFLINE agent having none. -/
theorem everyStepKeepsEntryLaw : Obligations.EveryStepKeepsEntryLaw :=
  fun _ _ entries agents h => ((step_moves h).keeps_entries ⟨agents.offlineIdle, entries⟩).entries

/-! ## Queue records -/

/-- R28, R39, R96, R99: a queue of `n` entries, queued or claimed, is within its depth limit, those that its flush has
dropped counted with them, and has none while DISABLED. -/
structure Within (n : Nat) (x : Queue) : Prop where
  depth : x.flushCount + n ≤ x.depth
  disabled : x.state = .disabled → n = 0

/-- And it has an entry while DRAINING. -/
structure Roomy (n : Nat) (x : Queue) : Prop extends Within n x where
  draining : x.state = .draining → 0 < n

/-- The record `x` of a queue of `n` entries may become `y`: it stays sound and roomy, and while there are entries the
redelivery limit is not lowered. -/
structure RecordKept (n : Nat) (x y : Queue) : Prop where
  sound : QueueSound x → QueueSound y
  roomy : QueueSound x → Roomy n x → Roomy n y
  limit : QueueSound x → Roomy n x → n = 0 ∨ x.limit ≤ y.limit

/-- The record has lost at most entries. -/
structure Shrunk (x y : Queue) : Prop where
  record : y = { x with urgent := y.urgent, normal := y.normal }
  urgent : x.urgent = [] → y.urgent = []
  normal : x.normal = [] → y.normal = []

/-- An entry dropped has been counted, or not, by the record of its home queue (R86, R90, R102). -/
structure Counted (x y : Queue) : Prop where
  sound : QueueSound x → QueueSound y
  state : y.state = x.state
  depth : y.depth = x.depth
  limit : y.limit = x.limit
  flushCount : y.flushCount ≤ x.flushCount + 1

section Records

variable {n : Nat} {x y : Queue}

/-- The fields of the configuration are in range when they are kept. -/
theorem QueueSound.of_fields (h : QueueSound x)
    (requester : y.requester.isSome = true ↔ y.state = .draining ∨ y.state = .flushing)
    (empty : y.state = .closed ∨ y.state = .disabled → y.urgent = [] ∧ y.normal = [])
    (flushIdle : y.state ≠ .flushing → y.flushCount = 0)
    (discards : y.discards = x.discards := by rfl) (depth : y.depth = x.depth := by rfl)
    (threshold : y.threshold = x.threshold := by rfl) (limit : y.limit = x.limit := by rfl) :
    QueueSound y where
  depth_range := depth ▸ h.depth_range
  threshold_range := by rw [threshold, depth]; exact h.threshold_range
  limit_range := limit ▸ h.limit_range
  discards_range := discards ▸ h.discards_range
  requester_present := requester
  closed_empty := empty
  flush_idle := flushIdle

/-- A queue that is neither DRAINING nor FLUSHING has no pending requester. -/
theorem QueueSound.no_requester (h : QueueSound x) (drains : x.state ≠ .draining) (flushes : x.state ≠ .flushing) :
    ¬x.requester.isSome = true := fun present => (h.requester_present.mp present).elim drains flushes

/-- A queue that is neither DRAINING nor FLUSHING goes over to another such state. -/
theorem QueueSound.setState (h : QueueSound x) {state : QueueState} (drains : x.state ≠ .draining)
    (flushes : x.state ≠ .flushing) (other : state ≠ .draining ∧ state ≠ .flushing)
    (empty : state = .closed ∨ state = .disabled → x.urgent = [] ∧ x.normal = []) :
    QueueSound { x with state := state } :=
  h.of_fields (iff_of_false (h.no_requester drains flushes) fun c => c.elim other.1 other.2) empty
    fun _ => h.flush_idle flushes

/-- A queue that is enabled, or ends a drain or a flush, has no pending requester and flush count 0 (R37, R99,
R104). -/
theorem QueueSound.settled (h : QueueSound x) {state : QueueState} (other : state ≠ .draining ∧ state ≠ .flushing)
    (empty : state = .closed ∨ state = .disabled → x.urgent = [] ∧ x.normal = []) :
    QueueSound { x with state := state, requester := none, flushCount := 0 } :=
  h.of_fields (iff_of_false nofun fun c => c.elim other.1 other.2) empty fun _ => rfl

/-- A queue's drain or flush begins for a requester (R97, R101). -/
theorem QueueSound.requested (h : QueueSound x) {state : QueueState} {r : Requester} {count : Nat}
    (begins : state = .draining ∨ state = .flushing) (flushIdle : state ≠ .flushing → count = 0) :
    QueueSound { x with state := state, requester := some r, flushCount := count } :=
  h.of_fields (iff_of_true rfl begins)
    (fun c => by rcases begins with rfl | rfl <;> rcases c with c | c <;> cases c) flushIdle

/-- RESTART leaves a sound record (R44). -/
theorem QueueSound.restarted (h : QueueSound x) : QueueSound x.restarted :=
  { h with
    discards_range := Nat.zero_le _
    requester_present := iff_of_false nofun fun c => c.elim nofun nofun
    closed_empty := fun _ => ⟨rfl, rfl⟩
    flush_idle := fun _ => rfl }

theorem QueueSound.shrunk (h : QueueSound x) (k : Shrunk x y) : QueueSound y := by
  have state : y.state = x.state := by rw [k.record]
  refine h.of_fields ?_ (fun closed => ?_) (fun other => ?_) ?_ ?_ ?_ ?_
  · rw [k.record]; exact h.requester_present
  · obtain ⟨urgent, normal⟩ := h.closed_empty (state ▸ closed)
    exact ⟨k.urgent urgent, k.normal normal⟩
  · rw [k.record]; exact h.flush_idle (state ▸ other)
  all_goals rw [k.record]

/-- A queue that is neither CLOSED nor DISABLED takes entries. -/
theorem QueueSound.lists (h : QueueSound x) (takes : x.state ≠ .closed ∧ x.state ≠ .disabled)
    (urgent normal : List EntryId) : QueueSound { x with urgent := urgent, normal := normal } :=
  h.of_fields h.requester_present (fun c => (c.elim takes.1 takes.2).elim) h.flush_idle

theorem pushTail_lists (x : Queue) (c : EntryClass) (e : EntryId) : x.pushTail c e =
    { x with urgent := (x.pushTail c e).urgent, normal := (x.pushTail c e).normal } := by cases c <;> rfl

theorem pushFront_lists (x : Queue) (c : EntryClass) (e : EntryId) : x.pushFront c e =
    { x with urgent := (x.pushFront c e).urgent, normal := (x.pushFront c e).normal } := by cases c <;> rfl

theorem Shrunk.refl (x : Queue) : Shrunk x x := ⟨rfl, id, id⟩

theorem Shrunk.popFront (x : Queue) : Shrunk x x.popFront := by
  unfold Queue.popFront
  split
  · rename_i e rest urgent
    exact ⟨rfl, fun c => absurd (urgent.symm.trans c) nofun, id⟩
  · exact ⟨rfl, id, fun c => by rw [c]; rfl⟩

/-- The law of the depth does not speak of the lists. -/
theorem Within.congr (h : Within n x) (state : y.state = x.state) (depth : y.depth = x.depth)
    (flushCount : y.flushCount = x.flushCount) : Within n y where
  depth := by rw [flushCount, depth]; exact h.depth
  disabled c := h.disabled (state ▸ c)

theorem Roomy.congr (h : Roomy n x) (state : y.state = x.state) (depth : y.depth = x.depth)
    (flushCount : y.flushCount = x.flushCount) : Roomy n y where
  toWithin := h.toWithin.congr state depth flushCount
  draining c := h.draining (state ▸ c)

theorem RecordKept.refl (n : Nat) (x : Queue) : RecordKept n x x := ⟨id, fun _ => id, fun _ _ => .inr le_rfl⟩

theorem RecordKept.trans {z : Queue} (h : RecordKept n x y) (k : RecordKept n y z) : RecordKept n x z where
  sound sound := k.sound (h.sound sound)
  roomy sound roomy := k.roomy (h.sound sound) (h.roomy sound roomy)
  limit sound roomy := (h.limit sound roomy).elim .inl fun first =>
    (k.limit (h.sound sound) (h.roomy sound roomy)).imp id first.trans

/-- A record goes over to another state, its configuration kept. -/
theorem RecordKept.of_state (sound : QueueSound x → QueueSound y)
    (disabled : QueueSound x → y.state = .disabled → n = 0) (draining : y.state = .draining → 0 < n)
    (flushCount : y.flushCount ≤ x.flushCount) (depth : y.depth = x.depth := by rfl)
    (limit : y.limit = x.limit := by rfl) : RecordKept n x y where
  sound := sound
  roomy sound h := ⟨⟨by have := h.depth; omega, disabled sound⟩, draining⟩
  limit _ _ := .inr limit.ge

theorem Counted.refl (x : Queue) : Counted x x := ⟨id, rfl, rfl, rfl, Nat.le_succ _⟩

/-- A FLUSHING queue counts an entry dropped (R86, R102). -/
theorem Counted.flush (flushing : x.state = .flushing) : Counted x { x with flushCount := x.flushCount + 1 } where
  sound h := h.of_fields h.requester_present h.closed_empty fun other => absurd flushing other
  state := rfl
  depth := rfl
  limit := rfl
  flushCount := le_rfl

/-- The discard count stops at its greatest value (R32, R90). -/
theorem Counted.discard (x : Queue) :
    Counted x { x with discards := min (x.discards + 1) Config.maxDiscards } where
  sound h := { h with discards_range := Nat.min_le_right .. }
  state := rfl
  depth := rfl
  limit := rfl
  flushCount := Nat.le_succ _

end Records
/-! ## The entries of a queue -/

/-- How many of the entries in use, and of those of `l`, have their home in a queue. -/
def homeCount (l : List EntryId) (s : State) (q : QueueId) : Nat :=
  (l ++ liveEntries s).countP fun e => (s.entry e).home == q

/-- The same entries in use, with the same homes, are counted the same. -/
theorem homeCount_congr {l k : List EntryId} {s t : State} (perm : (k ++ liveEntries t).Perm (l ++ liveEntries s))
    (home : ∀ e ∈ l ++ liveEntries s, (t.entry e).home = (s.entry e).home) : homeCount k t = homeCount l s := by
  funext q
  refine (perm.countP_eq _).trans (List.countP_congr fun e he => ?_)
  rw [home e he]

theorem homeCount_cons (e : EntryId) (l : List EntryId) (s : State) (q : QueueId) :
    homeCount (e :: l) s q = homeCount l s q + if (s.entry e).home = q then 1 else 0 := by
  simp [homeCount, List.countP_cons]

theorem SameEntries.home {s t : State} (h : SameEntries s t) (e : EntryId) :
    (t.entry e).home = (s.entry e).home := by rw [h.entry e]

theorem SameEntries.homeCount {s t : State} (h : SameEntries s t) (l : List EntryId) :
    homeCount l t = homeCount l s :=
  homeCount_congr (by rw [h.liveEntries]) fun e _ => h.home e

/-- One entry more in use. -/
theorem homeCount_join {u t : State} {e : EntryId} (live : (liveEntries t).Perm (e :: liveEntries u))
    (home : ∀ d ∈ liveEntries u, (t.entry d).home = (u.entry d).home) (q : QueueId) :
    homeCount [] t q = homeCount [] u q + if (t.entry e).home = q then 1 else 0 := by
  have same : (liveEntries u).countP (fun d => (t.entry d).home == q) = homeCount [] u q :=
    List.countP_congr fun d hd => by rw [home d hd]
  calc homeCount [] t q = (e :: liveEntries u).countP (fun d => (t.entry d).home == q) := live.countP_eq _
    _ = homeCount [] u q + if (t.entry e).home = q then 1 else 0 := by simp [List.countP_cons, same]

/-- An entry in use counts for its home queue. -/
theorem homeCount_pos {l : List EntryId} {s : State} {e : EntryId} (listed : e ∈ l ++ liveEntries s) :
    0 < homeCount l s (s.entry e).home := List.countP_pos_iff.mpr ⟨e, listed, by simp⟩

/-- The counts of R27 are of the entries whose home the queue is. -/
theorem EntryLawWith.homeCount {l : List EntryId} {s : State} (h : EntryLawWith l s) (q : QueueId) :
    homeCount [] s q = queuedCount s q + claimCount s q := by
  have queued (r : QueueId) : ((s.queue r).urgent ++ (s.queue r).normal).countP
      (fun e => (s.entry e).home == q) = if r = q then queuedCount s q else 0 := by
    have home : ∀ e ∈ (s.queue r).urgent ++ (s.queue r).normal, (s.entry e).home = r := fun e he =>
      (List.mem_append.mp he).elim (fun hu => (h.urgent_place r e hu).2.1) fun hn => (h.normal_place r e hn).2.1
    split
    · rename_i same
      subst same
      rw [List.countP_eq_length.mpr fun e he => by simp [home e he], List.length_append]
      rfl
    · rename_i other
      exact List.countP_eq_zero.mpr fun e he => by simp [home e he, other]
  have claimed (a : AgentId) : (s.agent a).claims.countP (fun e => (s.entry e).home == q) =
      (claimsOfQueue s q a).length := List.countP_eq_length_filter ..
  have all : ((List.finRange 32).map fun r => if r = q then queuedCount s q else 0).sum = queuedCount s q := by
    rw [← Fin.sum_univ_def, Finset.sum_ite_eq', if_pos (Finset.mem_univ q)]
  rw [Machine.homeCount, List.nil_append, liveEntries, List.countP_append, List.countP_flatMap, List.countP_flatMap]
  simp only [Function.comp_def, queued, claimed, all]
  rw [claimCount]

/-! ## The law of the depth with entries on their way -/

/-- The law of the depth while the entries of `l`, on their way from one list to another, count for their homes, and
the queues of `but` may be DRAINING without entries. -/
structure DepthLawWith (l : List EntryId) (but : List QueueId) (s : State) : Prop where
  within : ∀ q, Within (homeCount l s q) (s.queue q)
  draining : ∀ q ∉ but, (s.queue q).state = .draining → 0 < homeCount l s q
  redeliveries : ∀ e ∈ l ++ liveEntries s, (s.entry e).redeliveries ≤ (s.queue (s.entry e).home).limit

/-- With the entries and the queues sound, that is the law. -/
theorem depthLaw_iff {s : State} (entries : EntryLaw s) (queues : QueueLaw s) :
    DepthLaw s ↔ DepthLawWith [] [] s := by
  have count := ((entryLaw_iff s).mp entries).homeCount
  constructor
  · intro h
    refine ⟨fun q => ⟨?_, fun disabled => ?_⟩, fun q _ draining => ?_, h.redeliveries_within⟩
    · have := h.within q
      rw [count]; omega
    · obtain ⟨urgent, normal⟩ := (queues q).closed_empty (.inr disabled)
      rw [count, h.disabled_unclaimed q disabled, queuedCount, urgent, normal]
      rfl
    · rw [count]; exact h.draining_used q draining
  · intro h
    refine ⟨fun q => ?_, fun q disabled => ?_, fun q draining => ?_, h.redeliveries⟩
    · have := (h.within q).depth
      rw [count] at this; omega
    · have := (h.within q).disabled disabled
      rw [count] at this; omega
    · have := h.draining q List.not_mem_nil draining
      rwa [count] at this

end Sys2Proof.Machine

end

section

-- Taken one after the other, the proofs need one thread (see Tests/Slice0.lean).
set_option Elab.async false

namespace Sys2Proof.Machine

/-! ## Level changes -/

/-- The queue records are the same, the lists of entries, and the entry records but for their deadlines. -/
structure Level (s t : State) : Prop extends SameEntries s t where
  queues : t.queues = s.queues

section Level

variable {s t u : State}

theorem Level.trans (h : Level s t) (k : Level t u) : Level s u where
  toSameEntries := h.toSameEntries.trans k.toSameEntries
  queues := k.queues.trans h.queues

/-- `Level.trans` with the last change first. -/
theorem Level.after (k : Level t u) (h : Level s t) : Level s u := h.trans k

theorem Level.queue (h : Level s t) (q : QueueId) : t.queue q = s.queue q := congrArg (·.get q) h.queues

theorem Level.of_records (freeEntries : t.freeEntries = s.freeEntries := by rfl)
    (queues : t.queues = s.queues := by rfl) (agents : t.agents = s.agents := by rfl)
    (entries : t.entries = s.entries := by rfl) : Level s t where
  toSameEntries := .of_records freeEntries queues agents entries
  queues := queues

theorem Level.refl (s : State) : Level s s := .of_records

theorem Level.setAgent {a : AgentId} {x : Agent} (claims : x.claims = (s.agent a).claims) :
    Level s (s.setAgent a x) where
  toSameEntries := .setAgent claims
  queues := rfl

variable (s)

theorem Level.answer (a : AgentId) (c : ResultCode) (k : Action) (w : Word) : Level s (s.answer a c k w) :=
  .setAgent rfl

theorem Level.returns (p : Port) (w : Word) : Level s (s.returns p w) := by cases p <;> exact .of_records

theorem Level.setHeldAccesses (p : Port) (l : List HeldAccess) : Level s (s.setHeldAccesses p l) := by
  cases p <;> exact .of_records

theorem Level.setResetLine (p : Port) (b : Bool) : Level s (s.setResetLine p b) := by
  cases p <;> exact .of_records

theorem Level.controlAnswer (c : ControlCode) (k : ControlSubject) (n : Nat) :
    Level s (s.controlAnswer c k n) := .of_records

theorem Level.offerNotice (a : AgentId) (n : Notice) : Level s (offerNotice a n s) where
  toSameEntries := (Quiet.offerNotice a n s).toSameEntries
  queues := by rw [offerNotice_eq]; rfl

theorem Level.offerEvent (e : SupervisorEvent) : Level s (offerEvent e s) := by
  rw [offerEvent_eq]; exact .of_records

theorem Level.report (r : Option Requester) (n : Notice) (e : SupervisorEvent) : Level s (report r n e s) := by
  rcases r with _ | ⟨a⟩ | _
  · exact .refl s
  · exact .offerNotice s a n
  · exact .offerEvent s e

theorem Level.unbind (a : AgentId) (f : FrameIdx) : Level s (unbind a f s) := by
  rw [unbind_eq]; exact .setAgent rfl

theorem Level.unbindWithoutClaim (a : AgentId) (f : FrameIdx) : Level s (unbindWithoutClaim a f s) := by
  rw [unbindWithoutClaim_eq]; exact .setAgent rfl

theorem Level.lowWaterTest (p : PoolId) : Level s (lowWaterTest p s) := by
  unfold Machine.lowWaterTest
  dsimp only
  split
  · exact .after (.offerEvent ..) .of_records
  · exact .refl s

theorem Level.reArmTest (p : PoolId) : Level s (reArmTest p s) := by
  unfold Machine.reArmTest
  split
  · exact .of_records
  · exact .refl s

theorem Level.freePath (f : FrameIdx) : Level s (freePath f s) := by rw [freePath_eq]; exact .of_records

theorem Level.dropReference (f : FrameIdx) : Level s (dropReference f s) := by
  rw [dropReference_eq]
  split
  · exact .after (.freePath ..) .of_records
  · exact .of_records

theorem Level.giveBack (a : AgentId) (f : FrameIdx) : Level s (giveBack a f s) :=
  have left : Level s (leaveHeld a f s) := .setAgent rfl
  .after (.freePath ..) (.after .of_records left)

theorem Level.allocFrame (a : AgentId) (f : FrameIdx) : Level s (allocFrame a f s) :=
  .after (.setAgent rfl) .of_records

theorem Level.leaveDeadlines (e : EntryId) : Level s (leaveDeadlines e s) where
  toSameEntries := (Quiet.leaveDeadlines e s).toSameEntries
  queues := rfl

theorem Level.stagingWrite (a : AgentId) (change : Staging → Staging) : Level s (stagingWrite a change s) := by
  unfold Machine.stagingWrite
  dsimp only
  split
  · exact .setAgent rfl
  · exact .refl s

theorem Level.refuseReceive (a : AgentId) (c : ResultCode) (k : Action) (w : Word) :
    Level s (refuseReceive a c k w s) := (Level.answer ..).trans (.returns ..)

end Level

/-! ## Changes of the queue records alone -/

/-- The lists of entries are the same, the entry records but for their deadlines, and each queue's record may become
what it becomes. -/
structure Recorded (s t : State) : Prop extends SameEntries s t where
  record : ∀ q, RecordKept (queuedCount s q + claimCount s q) (s.queue q) (t.queue q)

section Recorded

variable {s t u : State}

theorem SameEntries.counts (h : SameEntries s t) (q : QueueId) :
    queuedCount t q + claimCount t q = queuedCount s q + claimCount s q := by
  simp only [queuedCount, claimCount, claimsOfQueue, h.urgent, h.normal, h.claims, h.home]

theorem Level.recorded (h : Level s t) : Recorded s t where
  toSameEntries := h.toSameEntries
  record q := by rw [h.queue]; exact .refl ..

theorem Recorded.trans (h : Recorded s t) (k : Recorded t u) : Recorded s u where
  toSameEntries := h.toSameEntries.trans k.toSameEntries
  record q := (h.record q).trans (h.counts q ▸ k.record q)

/-- A level change at the end. -/
theorem Recorded.level (k : Level t u) (h : Recorded s t) : Recorded s u := h.trans k.recorded

/-- One queue's record is replaced, and its lists kept. -/
theorem Recorded.setQueue {q : QueueId} {x : Queue} (urgent : x.urgent = (s.queue q).urgent)
    (normal : x.normal = (s.queue q).normal)
    (record : RecordKept (queuedCount s q + claimCount s q) (s.queue q) x) : Recorded s (s.setQueue q x) where
  toSameEntries := (Quiet.setQueue urgent normal).toSameEntries
  record r := by
    rw [State.setQueue_queue]
    split
    · rename_i same; rw [same]; exact record
    · exact .refl ..

end Recorded

/-! ## What one command does to the queues -/

/-- What a command changes of the queue records and of the entries of each queue, with what its checks have
established. -/
inductive QueueChange (s : State) : State → Prop
  /-- The queue records alone, but for their lists. -/
  | records {t : State} (recorded : Recorded s t) : QueueChange s t
  /-- ATTACH of an OFFLINE agent (R113). -/
  | attach {a : AgentId} (offline : (s.agent a).state = .offline) :
      QueueChange s (s.setAgent a ((s.agent a).cleared .online))
  /-- A frame is posted to queues that take it (R49, R53, R54). -/
  | post {a : AgentId} {f : FrameIdx} {qs : List QueueId} (takes : ∀ q ∈ qs, TakesPosts s a q) (once : qs.Nodup) :
      QueueChange s (postFrame a f qs s)
  /-- The front entry of a queue becomes a claim (R65). -/
  | claim {u : State} {a : AgentId} {q : QueueId} {e : EntryId} (before : Level s u)
      (front : (u.queue q).front = some e) : QueueChange s (claimEntry a q e u)
  /-- A claim ends and its entry returns to its home queue (R87). -/
  | returned {u : State} {a : AgentId} {e : EntryId} {n : Nat} (claimed : Claimed s a e)
      (ended : Quiet (endClaim a e s) u) (queues : u.queues = s.queues)
      (home : TakesReturns (u.queue (u.entry e).home))
      (count : n = (u.entry e).redeliveries ∨ n ≤ (u.queue (u.entry e).home).limit) :
      QueueChange s (returnEntry e n u)
  /-- A claim ends and its entry moves to the dead-letter queue (R88, R89). -/
  | moved {u : State} {a : AgentId} {e : EntryId} {d : QueueId} (claimed : Claimed s a e)
      (ended : Quiet (endClaim a e s) u) (queues : u.queues = s.queues) (target : MayMoveTo u e d) :
      QueueChange s (moveEntry e d u)
  /-- An entry is freed, its home queue counts it or not, and drain completion is tested (R71, R72, R90, R102). -/
  | dropped {u v : State} {e : EntryId} {h : QueueId} (off : TakenOff s u e)
      (shrunk : ∀ q, Shrunk (s.queue q) (u.queue q)) (freed : SameEntries (freeEntry e u) v)
      (home : EntryLaw s → (u.entry e).home = h) (others : ∀ q ≠ h, v.queue q = u.queue q)
      (counted : Counted (u.queue h) (v.queue h)) : QueueChange s (drainCompletion h v)
  /-- RESTART and PORST# leave no entry in use, and every queue DISABLED (R43, R44). -/
  | emptied {t : State} (empty : Emptied t) (sound : ∀ q, QueueSound (s.queue q) → QueueSound (t.queue q))
      (disabled : ∀ q, (t.queue q).state = .disabled ∧ (t.queue q).flushCount = 0) : QueueChange s t
  /-- A level change at the end. -/
  | level {t u : State} (change : QueueChange s t) (after : Level t u) : QueueChange s u

theorem Level.change {s t : State} (h : Level s t) : QueueChange s t := .records h.recorded

/-- `QueueChange.level` with the level change first. -/
theorem QueueChange.after {s t u : State} (k : Level t u) (h : QueueChange s t) : QueueChange s u := h.level k

/-! ## The law of the queues -/

section QueueLaw

variable {s t u v : State}

theorem QueueLaw.level (h : QueueLaw s) (k : Level s t) : QueueLaw t := fun q => by
  rw [k.queue]; exact h q

theorem QueueLaw.setQueue (h : QueueLaw s) {q : QueueId} {x : Queue} (sound : QueueSound x) :
    QueueLaw (s.setQueue q x) := fun r => by
  rw [State.setQueue_queue]
  split
  · exact sound
  · exact h r

/-- A queue that closes at the end of its drain has no entries (R99). -/
theorem QueueLaw.drainCompletion (h : QueueLaw s) (q : QueueId) : QueueLaw (drainCompletion q s) := by
  rw [drainCompletion_eq]
  split
  · rename_i done
    obtain ⟨draining, queued, -⟩ := done
    have empty : (s.queue q).urgent = [] ∧ (s.queue q).normal = [] := by
      simpa [queuedCount, Nat.add_eq_zero_iff] using queued
    have sound := (h q).settled (state := .closed) ⟨nofun, nofun⟩ fun _ => empty
    have idle : (s.queue q).flushCount = 0 := (h q).flush_idle (by rw [draining]; exact nofun)
    rw [← idle] at sound
    exact (h.setQueue sound).level (.report ..)
  · exact h

theorem QueueLaw.createEntry (h : QueueLaw s) (f : FrameIdx) (urgent : Bool) {q : QueueId}
    (takes : (s.queue q).state ≠ .closed ∧ (s.queue q).state ≠ .disabled) :
    QueueLaw (createEntry f urgent q s) := by
  unfold Machine.createEntry
  split
  · exact h
  · have sound := (h q).lists takes
    refine fun r => QueueLaw.setQueue (fun r => h r) ?_ r
    rw [pushTail_lists]
    exact sound ..

/-- An entry created leaves the states of the queues. -/
theorem createEntry_state (f : FrameIdx) (urgent : Bool) (q r : QueueId) (s : State) :
    ((createEntry f urgent q s).queue r).state = (s.queue r).state := by
  unfold createEntry
  split
  · rfl
  · rw [State.setQueue_queue]
    split
    · rename_i same
      rw [pushTail_lists, same]
    · rfl

theorem QueueLaw.createEntries (f : FrameIdx) (urgent : Bool) : ∀ (qs : List QueueId) {s : State}, QueueLaw s →
    (∀ q ∈ qs, (s.queue q).state ≠ .closed ∧ (s.queue q).state ≠ .disabled) →
    QueueLaw (qs.foldl (fun s q => Machine.createEntry f urgent q s) s)
  | [], _, h, _ => h
  | q :: qs, _, h, takes =>
    createEntries f urgent qs (h.createEntry f urgent (takes q List.mem_cons_self)) fun r hr => by
      rw [createEntry_state]; exact takes r (List.mem_cons_of_mem _ hr)

theorem TakesPosts.takes {a : AgentId} {q : QueueId} (h : TakesPosts s a q) :
    (s.queue q).state ≠ .closed ∧ (s.queue q).state ≠ .disabled := by
  rcases h.1 with state | state <;> rw [state] <;> exact ⟨nofun, nofun⟩

theorem TakesReturns.takes {x : Queue} (h : TakesReturns x) : x.state ≠ .closed ∧ x.state ≠ .disabled := by
  rcases h with state | state | state <;> rw [state] <;> exact ⟨nofun, nofun⟩

theorem MayMoveTo.takes {e : EntryId} {d : QueueId} (h : MayMoveTo s e d) :
    (s.queue d).state ≠ .closed ∧ (s.queue d).state ≠ .disabled := by
  obtain ⟨-, -, state | state, -⟩ := h <;> rw [state] <;> exact ⟨nofun, nofun⟩

/-- An accepted post is, for the queues, the entries that it creates. -/
theorem Level.postFrame (a : AgentId) (f : FrameIdx) (qs : List QueueId) (s : State) : ∃ x : Frame,
    Level (qs.foldl (fun u q => Machine.createEntry f (s.agent a).staging.urgent q u) (s.setFrame f x))
      (postFrame a f qs s) :=
  ⟨_, .after (.unbind ..) (.setAgent rfl)⟩

theorem claimEntry_queue (a : AgentId) (q r : QueueId) (e : EntryId) (s : State) :
    (claimEntry a q e s).queue r = if r = q then (s.queue q).popFront else s.queue r := by
  rw [claimEntry_eq]; exact Table.get_set ..

/-- Every change of a command keeps the law of the queues. -/
theorem QueueChange.keeps_queueLaw (h : QueueChange s t) (law : QueueLaw s) : QueueLaw t := by
  induction h with
  | records recorded => exact fun q => (recorded.record q).sound (law q)
  | attach => exact law
  | @post a f qs takes =>
    obtain ⟨x, posted⟩ := Level.postFrame a f qs s
    exact (QueueLaw.createEntries f _ qs (law.level (.of_records : Level s (s.setFrame f x)))
      fun q hq => (takes q hq).takes).level posted
  | @claim u a q e before =>
    have sound := law.level before
    intro r
    rw [claimEntry_queue]
    split
    · exact (sound q).shrunk (.popFront _)
    · exact sound r
  | @returned u a e n _ _ queues home =>
    have same (q : QueueId) : u.queue q = s.queue q := congrArg (·.get q) queues
    have sound : QueueLaw u := fun q => by rw [same]; exact law q
    rw [returnEntry]
    refine QueueLaw.setQueue (fun r => sound r) ?_
    rw [pushFront_lists]
    exact (sound _).lists home.takes ..
  | @moved u a e d _ _ queues target =>
    have same (q : QueueId) : u.queue q = s.queue q := congrArg (·.get q) queues
    have sound : QueueLaw u := fun q => by rw [same]; exact law q
    refine .drainCompletion (.level ?_ (.offerNotice ..)) _
    refine QueueLaw.setQueue (fun r => sound r) ?_
    rw [pushTail_lists]
    exact (sound d).lists target.takes ..
  | @dropped u v e h _ shrunk _ _ others counted =>
    refine QueueLaw.drainCompletion (fun q => ?_) _
    have sound := (law q).shrunk (shrunk q)
    by_cases same : q = h
    · subst same
      exact counted.sound sound
    · rw [others q same]; exact sound
  | emptied _ sound => exact fun q => sound q (law q)
  | level _ after ih => exact ih.level after

end QueueLaw

end Sys2Proof.Machine

end

section

-- Taken one after the other, the proofs need one thread (see Tests/Slice0.lean).
set_option Elab.async false

namespace Sys2Proof.Machine

/-! ## The law of the depth: the parts of a change -/

section Depth

variable {s t u v : State} {e : EntryId} {l : List EntryId} {but : List QueueId}

/-- An entry on its way is on no list. -/
theorem EntryLawWith.not_live (h : EntryLawWith [e] s) : e ∉ liveEntries s := by
  have nodup : (e :: entryLists s).Nodup := h.once.nodup_iff.mpr (List.nodup_finRange 2048)
  exact fun live => (List.nodup_cons.mp nodup).1 (mem_entryLists.mpr (.inr live))

/-- The law speaks of the homes and redelivery counts of the entries, and of the queue records but for their lists. -/
theorem DepthLawWith.congr {k : List EntryId} (h : DepthLawWith l but s)
    (perm : (k ++ liveEntries t).Perm (l ++ liveEntries s))
    (entry : ∀ e ∈ l ++ liveEntries s, (t.entry e).home = (s.entry e).home ∧
      (t.entry e).redeliveries = (s.entry e).redeliveries)
    (record : ∀ q, t.queue q = { s.queue q with urgent := (t.queue q).urgent, normal := (t.queue q).normal }) :
    DepthLawWith k but t := by
  have count := homeCount_congr perm fun e he => (entry e he).1
  refine ⟨fun q => ?_, fun q other draining => ?_, fun e he => ?_⟩
  · rw [count]
    refine (h.within q).congr ?_ ?_ ?_ <;> rw [record q]
  · rw [count]
    rw [record] at draining
    exact h.draining q other draining
  · have listed := perm.mem_iff.mp he
    obtain ⟨home, redeliveries⟩ := entry e listed
    rw [home, redeliveries, record]
    exact h.redeliveries e listed

theorem DepthLawWith.level (h : DepthLawWith l but s) (k : Level s t) : DepthLawWith l but t :=
  h.congr (by rw [k.liveEntries]) (fun e _ => by rw [k.entry e]; exact ⟨rfl, rfl⟩)
    fun q => by rw [k.queue q]

theorem TakenOff.redeliveries (off : TakenOff s u e) (d : EntryId) :
    (u.entry d).redeliveries = (s.entry d).redeliveries := by
  cases off with
  | claim a _ ended =>
    rw [ended.entry d, endClaim_entry]
    split
    · rename_i same; rw [same]
    · rfl
  | front q _ popped => rw [popped.entry d]; rfl

/-- An entry taken off its list still counts for its home queue. -/
theorem DepthLawWith.takeOff (h : DepthLawWith [] but s) (entries : EntryLaw s) (off : TakenOff s u e)
    (shrunk : ∀ q, Shrunk (s.queue q) (u.queue q)) : DepthLawWith [e] but u :=
  h.congr (off.live entries).symm (fun d _ => ⟨(off.entries d).2, off.redeliveries d⟩)
    fun q => (shrunk q).record

/-- The entry on its way no longer counts; its home queue may be without entries. -/
theorem DepthLawWith.forget (h : DepthLawWith [e] [] s) : DepthLawWith [] [(s.entry e).home] s where
  within q := by
    have before := h.within q
    rw [homeCount_cons] at before
    exact ⟨by have := before.depth; omega, fun disabled => by have := before.disabled disabled; omega⟩
  draining q other draining := by
    have before := h.draining q List.not_mem_nil draining
    rwa [homeCount_cons, if_neg fun same => other (List.mem_singleton.mpr same.symm)] at before
  redeliveries d hd := h.redeliveries d (List.mem_cons_of_mem _ hd)

/-- A DRAINING queue without entries closes (R99). -/
theorem DepthLawWith.drainCompletion {q : QueueId} (law : DepthLawWith [] [q] s) (entries : EntryLaw s) :
    DepthLawWith [] [] (drainCompletion q s) := by
  have count := ((entryLaw_iff s).mp entries).homeCount q
  have same := (Quiet.drainCompletion q s).toSameEntries
  have counts := same.homeCount []
  have live := same.liveEntries
  have entry := same.entry
  have tested := drainTested q s
  rw [DrainTested] at tested
  generalize Machine.drainCompletion q s = t at counts live entry tested
  split at tested
  · obtain ⟨only, -⟩ := tested
    refine ⟨fun r => ?_, fun r _ draining => ?_, fun e he => ?_⟩
    · rw [counts, only]
      split
      · rename_i here
        exact ⟨here ▸ (law.within q).depth, nofun⟩
      · exact law.within r
    · rw [counts]
      rw [only] at draining
      split at draining
      · cases draining
      · rename_i other
        exact law.draining r (fun c => other (List.mem_singleton.mp c)) draining
    · rw [List.nil_append, live] at he
      have limit : (t.queue (s.entry e).home).limit = (s.queue (s.entry e).home).limit := by
        rw [only]
        split
        · rename_i here; rw [here]
        · rfl
      rw [entry e]
      exact (law.redeliveries e he).trans limit.ge
  · rename_i used
    rw [tested]
    refine ⟨law.within, fun r _ draining => ?_, law.redeliveries⟩
    by_cases here : r = q
    · subst here
      by_contra none
      exact used ⟨draining, by omega, by omega⟩
    · exact law.draining r (fun c => here (List.mem_singleton.mp c)) draining

/-- An entry joins a queue that is not DISABLED and has room for it: the queue is not without entries then (R54, R87,
R89). -/
theorem DepthLawWith.join {before after : List QueueId} {x : Entry} (law : DepthLawWith [] before u)
    (fresh : e ∉ liveEntries u) (live : (liveEntries t).Perm (e :: liveEntries u))
    (entry : ∀ d, t.entry d = if d = e then x else u.entry d)
    (record : ∀ q, t.queue q = { u.queue q with urgent := (t.queue q).urgent, normal := (t.queue q).normal })
    (room : (u.queue x.home).flushCount + homeCount [] u x.home < (u.queue x.home).depth)
    (enabled : (u.queue x.home).state ≠ .disabled) (limit : x.redeliveries ≤ (u.queue x.home).limit)
    (used : ∀ q ∉ after, q ∈ before → q = x.home) : DepthLawWith [] after t := by
  have old {d : EntryId} (hd : d ∈ liveEntries u) : t.entry d = u.entry d :=
    (entry d).trans (if_neg fun same : d = e => fresh (same ▸ hd))
  have new : t.entry e = x := (entry e).trans (if_pos rfl)
  have count := homeCount_join live fun d hd => by rw [old hd]
  rw [new] at count
  refine ⟨fun q => ?_, fun q other draining => ?_, fun d hd => ?_⟩
  · rw [count]
    split
    · rename_i home
      subst home
      rw [record]
      exact ⟨room, fun disabled => absurd disabled enabled⟩
    · refine (law.within q).congr ?_ ?_ ?_ <;> rw [record]
  · rw [count]
    split
    · exact Nat.succ_pos _
    · rename_i elsewhere
      rw [record] at draining
      exact law.draining q (fun c => elsewhere (used q other c).symm) draining
  · rcases List.mem_cons.mp (live.mem_iff.mp hd) with rfl | hd
    · rw [new, record]; exact limit
    · rw [old hd, record]; exact law.redeliveries d hd

/-- An entry on its way joins the front or the tail of a list of a queue. -/
theorem DepthLawWith.queued {before after : List QueueId} {x : Entry} {y : Queue} (law : DepthLawWith [] before u)
    (fresh : e ∉ liveEntries u)
    (joined : y = (u.queue x.home).pushFront x.cls e ∨ y = (u.queue x.home).pushTail x.cls e)
    (room : (u.queue x.home).flushCount + homeCount [] u x.home < (u.queue x.home).depth)
    (enabled : (u.queue x.home).state ≠ .disabled) (limit : x.redeliveries ≤ (u.queue x.home).limit)
    (used : ∀ q ∉ after, q ∈ before → q = x.home) :
    DepthLawWith [] after ((u.setEntry e x).setQueue x.home y) := by
  have perm : (y.urgent ++ y.normal).Perm (e :: ((u.queue x.home).urgent ++ (u.queue x.home).normal)) := by
    rcases joined with rfl | rfl
    · exact pushFront_perm ..
    · exact pushTail_perm ..
  have lists : y = { u.queue x.home with urgent := y.urgent, normal := y.normal } := by
    rcases joined with rfl | rfl
    · exact pushFront_lists ..
    · exact pushTail_lists ..
  refine law.join fresh (liveEntries_setQueue (s := u.setEntry e x) perm) (fun d => State.setEntry_entry u e d x)
    (fun q => ?_) room enabled limit used
  rw [State.setQueue_queue]
  split
  · rename_i home; rw [home]; exact lists
  · rfl

/-- An entry freed counts no more for its home queue, whose flush may have counted it instead (R86, R102). -/
theorem DepthLawWith.freed (law : DepthLawWith [e] [] u) (freed : SameEntries (freeEntry e u) v)
    (others : ∀ q ≠ (u.entry e).home, v.queue q = u.queue q)
    (home : Counted (u.queue (u.entry e).home) (v.queue (u.entry e).home)) :
    DepthLawWith [] [(u.entry e).home] v := by
  have entry (d : EntryId) : (v.entry d).home = (u.entry d).home ∧
      (v.entry d).redeliveries = (u.entry d).redeliveries := by
    rw [freed.entry d, freeEntry_entry]
    split
    · rename_i same; rw [same]; exact ⟨rfl, rfl⟩
    · exact ⟨rfl, rfl⟩
  have live : liveEntries v = liveEntries u := freed.liveEntries
  have count : homeCount [] v = homeCount [] u :=
    homeCount_congr (by rw [live]) fun d _ => (entry d).1
  have limit (q : QueueId) : (v.queue q).limit = (u.queue q).limit := by
    by_cases here : q = (u.entry e).home
    · rw [here, home.limit]
    · rw [others q here]
  have rest := law.forget
  refine ⟨fun q => ?_, fun q other => ?_, fun d hd => ?_⟩
  · rw [count]
    by_cases here : q = (u.entry e).home
    · subst here
      have before := law.within (u.entry e).home
      rw [homeCount_cons, if_pos rfl] at before
      refine ⟨?_, fun disabled => ?_⟩
      · have := before.depth
        have := home.flushCount
        rw [home.depth]; omega
      · exact (rest.within _).disabled (home.state ▸ disabled)
    · rw [others q here]; exact rest.within q
  · rw [count, others q fun c => other (List.mem_singleton.mpr c)]
    exact rest.draining q other
  · rw [live] at hd
    rw [(entry d).1, (entry d).2, limit]
    exact rest.redeliveries d hd

/-! ## Posting and receiving -/

theorem createEntry_queue (f : FrameIdx) (urgent : Bool) (q : QueueId) (s : State) {r : QueueId} (other : r ≠ q) :
    (createEntry f urgent q s).queue r = s.queue r := by
  unfold createEntry
  split
  · rfl
  · rw [State.setQueue_queue, if_neg other]; rfl

/-- An entry is created on a queue with room for it (R54); no other queue's count changes. -/
theorem createEntry_depth (f : FrameIdx) (urgent : Bool) {q : QueueId} (entries : EntryLaw s)
    (law : DepthLawWith [] [] s)
    (room : (s.queue q).flushCount + homeCount [] s q < (s.queue q).depth) (enabled : (s.queue q).state ≠ .disabled) :
    DepthLawWith [] [] (createEntry f urgent q s) ∧
      ∀ r ≠ q, homeCount [] (createEntry f urgent q s) r = homeCount [] s r := by
  cases free : s.freeEntries with
  | nil =>
    have same : createEntry f urgent q s = s := by rw [createEntry, free]
    rw [same]
    exact ⟨law, fun _ _ => rfl⟩
  | cons e rest =>
    have fresh : e ∉ liveEntries s := fun c =>
      (List.nodup_append.mp entries.nodup).2.2 e (free ▸ List.mem_cons_self) e c rfl
    let u : State := { s with freeEntries := rest }
    have made : createEntry f urgent q s = (u.setEntry e (newEntry f urgent q)).setQueue q
        ((u.queue q).pushTail (classOf urgent) e) := createEntry_cons f urgent q s e rest free
    rw [made]
    have taken : DepthLawWith [] [] u := law.congr (.refl _) (fun _ _ => ⟨rfl, rfl⟩) fun _ => rfl
    refine ⟨taken.queued (x := newEntry f urgent q) fresh (.inr rfl) room enabled (Nat.zero_le _)
      fun _ _ => nofun, fun r other => ?_⟩
    have live : (liveEntries ((u.setEntry e (newEntry f urgent q)).setQueue q
        ((u.queue q).pushTail (classOf urgent) e))).Perm (e :: liveEntries u) :=
      liveEntries_setQueue (s := u.setEntry e (newEntry f urgent q)) (pushTail_perm ..)
    have entry (d : EntryId) : ((u.setEntry e (newEntry f urgent q)).setQueue q
        ((u.queue q).pushTail (classOf urgent) e)).entry d = if d = e then newEntry f urgent q else s.entry d :=
      State.setEntry_entry ..
    rw [homeCount_join live (fun d hd => by rw [entry, if_neg fun same : d = e => fresh (same ▸ hd)]; rfl) r,
      entry, if_pos rfl, if_neg fun same => other same.symm]
    rfl

/-- A queue has room for a post, and is not DISABLED. -/
structure Joinable (n : Nat) (x : Queue) : Prop where
  room : x.flushCount + n < x.depth
  enabled : x.state ≠ .disabled

theorem createEntries_depth (f : FrameIdx) (urgent : Bool) : ∀ (qs : List QueueId) {s : State}, EntryLaw s →
    DepthLawWith [] [] s → qs.Nodup → (∀ q ∈ qs, Joinable (homeCount [] s q) (s.queue q)) →
    DepthLawWith [] [] (qs.foldl (fun s q => createEntry f urgent q s) s)
  | [], _, _, law, _, _ => law
  | q :: qs, s, entries, law, once, joins => by
    obtain ⟨notin, once⟩ := List.nodup_cons.mp once
    obtain ⟨room, enabled⟩ := joins q List.mem_cons_self
    obtain ⟨law, counts⟩ := createEntry_depth f urgent entries law room enabled
    refine createEntries_depth f urgent qs (entries.createEntry f urgent q) law once fun r hr => ?_
    have other : r ≠ q := fun same => notin (same ▸ hr)
    rw [counts r other, createEntry_queue f urgent q s other]
    exact joins r (List.mem_cons_of_mem _ hr)

/-- A queue that passes the destination test has room (R49). -/
theorem TakesPosts.joinable {a : AgentId} {q : QueueId} (h : TakesPosts s a q) (entries : EntryLaw s)
    (queues : QueueLaw s) : Joinable (homeCount [] s q) (s.queue q) where
  room := by
    have idle : (s.queue q).flushCount = 0 := (queues q).flush_idle (by
      rcases h.1 with state | state <;> rw [state] <;> exact nofun)
    have := h.2.2
    rw [((entryLaw_iff s).mp entries).homeCount]; omega
  enabled := h.takes.2

theorem claimEntry_redeliveries (a : AgentId) (q : QueueId) (e d : EntryId) (s : State) :
    ((claimEntry a q e s).entry d).redeliveries = (s.entry d).redeliveries := by
  have entry : (claimEntry a q e s).entry d = if d = e then
      { s.entry e with
        place := .claimed, claimant := some a, deadline := deadlineAt s (s.queue q).timeout }
      else s.entry d := by rw [claimEntry_eq]; exact Table.get_set ..
  rw [entry]
  split
  · rename_i same; rw [same]
  · rfl

/-- A claim counts for its home queue as it did in the queue (R27). -/
theorem DepthLawWith.claimEntry {a : AgentId} {q : QueueId} (law : DepthLawWith [] but s)
    (front : (s.queue q).front = some e) : DepthLawWith [] but (claimEntry a q e s) := by
  obtain ⟨live, kept⟩ := claimEntry_live (a := a) front
  refine law.congr live (fun d _ => ⟨(kept d).2, claimEntry_redeliveries a q e d s⟩) fun r => ?_
  rw [claimEntry_queue]
  split
  · rename_i same; rw [same]; exact (Shrunk.popFront _).record
  · rfl

end Depth

/-! ## The law of the depth -/

theorem Emptied.depth {t : State} (h : Emptied t)
    (disabled : ∀ q, (t.queue q).state = .disabled ∧ (t.queue q).flushCount = 0) : DepthLawWith [] [] t := by
  have none (q : QueueId) : homeCount [] t q = 0 := by rw [homeCount, h.live]; rfl
  refine ⟨fun q => ?_, fun q _ draining => ?_, fun e he => ?_⟩
  · obtain ⟨-, zero⟩ := disabled q
    rw [none]
    exact ⟨by omega, fun _ => rfl⟩
  · rw [(disabled q).1] at draining; cases draining
  · rw [h.live] at he; cases he

/-- Changes of the queue records alone keep the law. -/
theorem DepthLawWith.recorded {s t : State} (law : DepthLawWith [] [] s) (entries : EntryLaw s) (queues : QueueLaw s)
    (k : Recorded s t) : DepthLawWith [] [] t := by
  have record (q : QueueId) : RecordKept (homeCount [] s q) (s.queue q) (t.queue q) := by
    rw [((entryLaw_iff s).mp entries).homeCount]; exact k.record q
  have before (q : QueueId) : Roomy (homeCount [] s q) (s.queue q) :=
    ⟨law.within q, law.draining q List.not_mem_nil⟩
  have after (q : QueueId) : Roomy (homeCount [] t q) (t.queue q) := by
    rw [k.homeCount]
    exact (record q).roomy (queues q) (before q)
  refine ⟨fun q => (after q).toWithin, fun q _ => (after q).draining, fun e he => ?_⟩
  rw [List.nil_append, k.liveEntries] at he
  have used : 0 < homeCount [] s (s.entry e).home := homeCount_pos he
  rw [k.entry e]
  exact (law.redeliveries e he).trans
    (((record _).limit (queues _) (before _)).resolve_left used.ne')

/-- Every change of a command keeps the law of the depth. -/
theorem QueueChange.keeps_depth {s t : State} (h : QueueChange s t) (idle : OfflineIdle s) (entries : EntryLaw s)
    (queues : QueueLaw s) (law : DepthLawWith [] [] s) : DepthLawWith [] [] t := by
  induction h with
  | records recorded => exact law.recorded entries queues recorded
  | @attach a offline => exact law.level (.setAgent (idle a offline).2.symm)
  | @post a f qs takes once =>
    obtain ⟨x, posted⟩ := Level.postFrame a f qs s
    have framed : Level s (s.setFrame f x) := .of_records
    exact (createEntries_depth f _ qs (entries.of_same framed.toSameEntries) (law.level framed) once
      fun q hq => (takes q hq).joinable entries queues).level posted
  | claim before front => exact (law.level before).claimEntry front
  | @returned u a e n claimed ended same home count =>
    have off : TakenOff s u e := .claim a claimed ended
    have queue (q : QueueId) : u.queue q = s.queue q := congrArg (·.get q) same
    have counted := law.takeOff entries off fun q => by rw [queue]; exact .refl _
    have within := counted.within (u.entry e).home
    rw [homeCount_cons, if_pos rfl] at within
    have limit : n ≤ (u.queue (u.entry e).home).limit := by
      rcases count with rfl | below
      · exact counted.redeliveries e List.mem_cons_self
      · exact below
    exact counted.forget.queued (x := { u.entry e with place := .queued, redeliveries := n })
      (off.entryLaw entries).not_live (.inl rfl) (by have := within.depth; dsimp only; omega) home.takes.2 limit
      fun q _ => List.mem_singleton.mp
  | @moved u a e d claimed ended same target =>
    have off : TakenOff s u e := .claim a claimed ended
    have queue (q : QueueId) : u.queue q = s.queue q := congrArg (·.get q) same
    have counted := law.takeOff entries off fun q => by rw [queue]; exact .refl _
    have moving := off.entryLaw entries
    obtain ⟨-, -, state, room, -⟩ := target
    have flushIdle : (u.queue d).flushCount = 0 := by
      rw [queue] at state ⊢
      exact (queues d).flush_idle (by rcases state with state | state <;> rw [state] <;> exact nofun)
    let x : Entry := { u.entry e with place := .queued, home := d, cls := .normal, redeliveries := 0 }
    let y := (u.queue d).pushTail .normal e
    have joined : DepthLawWith [] [(u.entry e).home] ((u.setEntry e x).setQueue d y) :=
      counted.forget.queued (x := x) moving.not_live (.inr rfl)
        (by rw [moving.homeCount]; dsimp only [x]; omega) (by
          dsimp only [x]; rcases state with state | state <;> rw [state] <;> exact nofun) (Nat.zero_le _)
        fun q other c => absurd c other
    have placed : EntryLaw ((u.setEntry e x).setQueue d y) :=
      moving.queued (x := x) rfl (off.claimant entries) (.inr rfl)
    have told := Level.offerNotice ((u.setEntry e x).setQueue d y)
      (((u.setEntry e x).setQueue d y).frame (u.entry e).frame).source
      (undelivered (u.entry e).home .deadLettered
        (handleOf ((u.setEntry e x).setQueue d y) (u.entry e).frame))
    exact (joined.level told).drainCompletion (placed.of_same told.toSameEntries)
  | @dropped u v e h off shrunk freed home others counted =>
    obtain rfl := home entries
    have freedEntries : EntryLaw v :=
      ((off.entryLaw entries).freeEntry (off.claimant entries)).of_same freed
    exact ((law.takeOff entries off shrunk).freed freed others counted).drainCompletion freedEntries
  | emptied empty _ disabled => exact empty.depth disabled
  | level _ after ih => exact ih.level after

end Sys2Proof.Machine

end

section

-- Taken one after the other, the proofs need one thread (see Tests/Slice0.lean).
set_option Elab.async false

namespace Sys2Proof.Machine

/-! ## The commands of the ports -/

section Ports

variable {s t : State} {a : AgentId}

/-- An access is held, completes in INIT, or runs. -/
theorem takeAccess_queueChange {p : Port} {c : HeldAccess} {inInit : State → State} {run : State → Out}
    (h : takeAccess p c inInit run s = .next t) (init : Level s (inInit s))
    (runs : run s = .next t → QueueChange s t) : QueueChange s t := by
  rcases takeAccess_cases h with ⟨-, e⟩ | ⟨-, -, e⟩ | ⟨-, e⟩
  · cases e; exact (Level.setHeldAccesses ..).change
  · cases e; exact init.change
  · exact runs e.symm

theorem readAccess_queueChange {p : Port} {c : Instr} {run : State → State}
    (h : readAccess p c run s = .next t) (runs : QueueChange s (run s)) : QueueChange s t :=
  takeAccess_queueChange h (.returns ..) fun e => by cases e; exact runs

theorem writeAccess_queueChange {p : Port} {c : Instr} {run : State → State}
    (h : writeAccess p c run s = .next t) (runs : QueueChange s (run s)) : QueueChange s t :=
  takeAccess_queueChange h (.refl s) fun e => by cases e; exact runs

/-! ### Frames -/

theorem execAlloc_queueChange {p : PoolId} (h : execAlloc a p s = .next t) : QueueChange s t := by
  refine readAccess_queueChange h (Level.change ?_)
  split
  · exact .after (.returns ..) (.after (.answer ..) (.after (.lowWaterTest ..) (.after (.allocFrame ..) .of_records)))
  · exact .after (.returns ..) (.answer ..)

theorem execFree_queueChange {w : Word} (h : execFree a w s = .next t) : QueueChange s t := by
  refine writeAccess_queueChange h (Level.change ?_)
  split
  · exact .answer ..
  · exact .after (.answer ..) (.after (.unbind ..) (.giveBack ..))

/-! ### Posting -/

/-- A queue that answers no refusal takes posts (R49). -/
theorem takesPosts_of_destinationRefusal {q : QueueId} (h : destinationRefusal s a q = none) :
    TakesPosts s a q := by
  simp only [destinationRefusal, firstRefusal_eq_none_iff, List.forall_mem_cons, refuseIf_eq_none_iff] at h
  obtain ⟨enabled, permitted, live, idle, room, -⟩ := h
  refine ⟨?_, by simpa using permitted, by simpa [hasRoom] using room⟩
  cases state : (s.queue q).state <;> simp_all

theorem takesPosts_of_destinationsRefusal : ∀ {qs : List QueueId}, destinationsRefusal s a qs = none →
    ∀ q ∈ qs, TakesPosts s a q
  | [], _ => nofun
  | q :: qs, h => by
    rw [destinationsRefusal] at h
    split at h
    · cases h
    · exact List.forall_mem_cons.mpr ⟨takesPosts_of_destinationRefusal ‹_›, takesPosts_of_destinationsRefusal h⟩

theorem postWrite_queueChange (a : AgentId) (w : Word) (s : State) : QueueChange s (postWrite a w s) := by
  unfold postWrite
  split
  · exact (Level.answer ..).change
  · rename_i refusal
    simp only [postRefusal, firstRefusal_eq_none_iff, List.forall_mem_cons, refuseIf_eq_none_iff] at refusal
    obtain ⟨-, -, staged, takes, -⟩ := refusal
    obtain ⟨qs, destinations⟩ := Option.isSome_iff_exists.mp (by simpa using staged)
    rw [destinations, Option.getD_some] at takes ⊢
    exact .after (.answer ..)
      (.post (takesPosts_of_destinationsRefusal takes) (stagedQueues_spec destinations).2)

theorem execReply_queueChange {w : Word} (h : execReply a w s = .next t) : QueueChange s t := by
  refine writeAccess_queueChange h ?_
  dsimp only
  split
  · exact (Level.answer ..).change
  · rename_i refusal
    simp only [replyRefusal, firstRefusal_eq_none_iff, List.forall_mem_cons] at refusal
    obtain ⟨-, -, -, takes, -⟩ := refusal
    exact .after (.answer ..) (.post (takesPosts_of_destinationsRefusal takes) (List.nodup_singleton _))

/-! ### Receiving -/

/-- An accepted receive, after a level change. -/
theorem acceptReceive_queueChange {u : State} {q : QueueId} {e : EntryId} {k : Action} (before : Level s u)
    (front : (u.queue q).front = some e) : QueueChange s (acceptReceive a q e k u) :=
  .after (.returns ..) (.after (.answer ..) (.claim before front))

theorem execReceive_queueChange {q : QueueId} (h : execReceive a q s = .next t) : QueueChange s t := by
  refine readAccess_queueChange h ?_
  split
  · exact acceptReceive_queueChange (.refl s) ‹_›
  · exact (Level.refuseReceive ..).change

theorem execReceiveAny_queueChange (h : execReceiveAny a s = .next t) : QueueChange s t := by
  refine readAccess_queueChange h ?_
  dsimp only
  split
  · split
    · exact acceptReceive_queueChange (.setAgent rfl) ‹_›
    · exact (Level.refuseReceive ..).change
  · exact (Level.refuseReceive ..).change

/-! ### The ends of a claim -/

/-- The end of a claim leaves the queue records. -/
theorem endClaim_queues (a : AgentId) (e : EntryId) (s : State) : (endClaim a e s).queues = s.queues := by
  rw [endClaim_eq]

/-- The same queue records have lost no entries. -/
theorem shrunk_of_queues {u : State} (queues : u.queues = s.queues) (q : QueueId) :
    Shrunk (s.queue q) (u.queue q) := by
  rw [State.queue, State.queue, queues]; exact .refl _

/-- An entry is freed, and its home queue's record becomes `y`, which counts it or not. -/
theorem counted_queueChange {u v : State} {e : EntryId} {q : QueueId} {y : Queue} (off : TakenOff s u e)
    (shrunk : ∀ q, Shrunk (s.queue q) (u.queue q)) (home : EntryLaw s → (u.entry e).home = q)
    (counted : Counted (u.queue q) y) (after : Level ((freeEntry e u).setQueue q y) v)
    (urgent : y.urgent = (u.queue q).urgent := by rfl) (normal : y.normal = (u.queue q).normal := by rfl) :
    QueueChange s (drainCompletion q v) := by
  have replaced : SameEntries (freeEntry e u) ((freeEntry e u).setQueue q y) :=
    (Quiet.setQueue (s := freeEntry e u) urgent normal).toSameEntries
  refine .dropped off shrunk (replaced.trans after.toSameEntries) home (fun r other => ?_) ?_
  · rw [after.queue, State.setQueue_queue, if_neg other]
    rfl
  · rw [after.queue, State.setQueue_queue_self]
    exact counted

/-- A FLUSHING home queue counts the entry; it is not DRAINING (R86, R102). -/
theorem flushed_queueChange {u v : State} {e : EntryId} {q : QueueId} (off : TakenOff s u e)
    (shrunk : ∀ q, Shrunk (s.queue q) (u.queue q)) (home : EntryLaw s → (u.entry e).home = q)
    (flushing : (u.queue q).state = .flushing)
    (after : Level ((freeEntry e u).setQueue q
      { u.queue q with flushCount := (u.queue q).flushCount + 1 }) v) : QueueChange s v := by
  have change := counted_queueChange off shrunk home (.flush flushing) after
  rwa [drainCompletion_of_not_draining] at change
  rw [after.queue, State.setQueue_queue_self]
  change (u.queue q).state ≠ _
  rw [flushing]
  exact nofun

/-- A queue to which no entry returns is FLUSHING, CLOSED or DISABLED (R86). -/
theorem state_of_not_takesReturns {x : Queue} (h : ¬TakesReturns x) :
    x.state = .flushing ∨ x.state = .closed ∨ x.state = .disabled := by
  rw [TakesReturns] at h
  cases state : x.state <;> simp_all

section Redelivery

variable {u : State} {e : EntryId} (claimed : Claimed s a e) (ended : Quiet (endClaim a e s) u)
  (queues : u.queues = s.queues)
include claimed ended queues

theorem dropIntoFlush_queueChange (flushing : (u.queue (u.entry e).home).state = .flushing) :
    QueueChange s (dropIntoFlush e u) :=
  flushed_queueChange (.claim a claimed ended) (shrunk_of_queues queues) (fun _ => rfl) flushing
    (.dropReference ..)

theorem dropWithNotice_queueChange : QueueChange s (dropWithNotice e u) :=
  counted_queueChange (.claim a claimed ended) (shrunk_of_queues queues) (fun _ => rfl) (.discard _)
    (.after (.offerNotice ..) (.dropReference ..))

/-- Whatever the redelivery path does with an entry whose claim has ended (R86). -/
theorem redeliver_queueChange (r : ReturnReason) : QueueChange s (redeliver e r u) := by
  have dead : QueueChange s (deadLetterPath e u) := by
    unfold deadLetterPath
    split
    · exact .moved claimed ended queues ((moveTarget_eq_some ..).mp ‹_›)
    · exact dropWithNotice_queueChange claimed ended queues
  by_cases home : TakesReturns (u.queue (u.entry e).home)
  · by_cases reason : r = .retired
    · rw [reason, redeliver_retired home]
      exact .returned claimed ended queues home (.inl rfl)
    · by_cases below : (u.entry e).redeliveries < (u.queue (u.entry e).home).limit
      · rw [redeliver_below_limit reason home below]
        exact .returned claimed ended queues home (.inr below)
      · rw [redeliver_at_limit reason home (not_lt.mp below)]
        exact dead
  · rcases state_of_not_takesReturns home with state | state | state
    · rw [redeliver_of_flushing state]
      exact dropIntoFlush_queueChange claimed ended queues state
    all_goals
      simp only [redeliver, state]
      exact dropWithNotice_queueChange claimed ended queues

end Redelivery

/-- A claim ends, its entry is freed, and drain completion is tested on its home queue (R71, R72). -/
theorem freeClaim_queueChange {v : State} {e : EntryId} (claimed : Claimed s a e)
    (freed : Level (freeEntry e (endClaim a e s)) v) : QueueChange s (drainCompletion (s.entry e).home v) := by
  have home : ((endClaim a e s).entry e).home = (s.entry e).home := by rw [endClaim_entry, if_pos rfl]
  have queue (q : QueueId) : v.queue q = (endClaim a e s).queue q := freed.queue q
  exact .dropped (.claim a claimed (.refl _)) (shrunk_of_queues (endClaim_queues a e s)) freed.toSameEntries
    (fun _ => home) (fun q _ => queue q) (by rw [queue]; exact .refl _)

theorem execComplete_queueChange {w : Word} (h : execComplete a w s = .next t) : QueueChange s t := by
  refine writeAccess_queueChange h ?_
  split
  · rename_i e rest _ claims
    refine .after (.answer ..) (freeClaim_queueChange (.inl (mem_of_claimsOn claims).1) ?_)
    exact .after (.unbindWithoutClaim ..) (.dropReference ..)
  · exact (Level.answer ..).change

theorem execTake_queueChange {w : Word} (h : execTake a w s = .next t) : QueueChange s t := by
  refine writeAccess_queueChange h ?_
  split
  · rename_i e rest _ claims
    refine .after (.answer ..) (freeClaim_queueChange (.inl (mem_of_claimsOn claims).1) ?_)
    exact .after (.setAgent rfl) .of_records
  · exact (Level.answer ..).change

theorem execRelease_queueChange {w : Word} (h : execRelease a w s = .next t) : QueueChange s t := by
  refine writeAccess_queueChange h ?_
  split
  · rename_i e rest _ claims
    refine .after (.answer ..) (redeliver_queueChange (.inl (mem_of_claimsOn claims).1) (.unbindWithoutClaim ..) ?_ _)
    exact (Level.unbindWithoutClaim ..).queues.trans (endClaim_queues a e s)
  · exact (Level.answer ..).change

theorem execClaimExpiry_queueChange (h : execClaimExpiry s = .next t) : QueueChange s t := by
  unfold execClaimExpiry at h
  split at h
  · cases h; exact (Level.refl s).change
  · rename_i e rest front
    split at h
    · rename_i a claimant
      cases h
      have claimed : Claimed s a e := .inr ⟨front ▸ List.mem_cons_self, claimant⟩
      refine redeliver_queueChange (u := offerNotice a _ _) claimed ?_ ?_ .expired
      · exact .after (.offerNotice ..) (.unbindWithoutClaim ..)
      · exact (Level.after (.offerNotice ..) (.unbindWithoutClaim ..)).queues.trans (endClaim_queues a e s)
    · cases h; exact (Level.leaveDeadlines ..).change

theorem execRetireClaimStep_queueChange (h : execRetireClaimStep a s = .next t) : QueueChange s t := by
  unfold execRetireClaimStep at h
  split at h
  · split at h
    · rename_i e last
      cases h
      have claimed : Claimed s a e := .inl (List.mem_of_getLast? last)
      refine .after (.setAgent ?_) (redeliver_queueChange claimed (.refl _) (endClaim_queues a e s) .retired)
      split <;> rfl
    · cases h; exact (Level.refl s).change
  · cases h; exact (Level.refl s).change

/-! ### Agents -/

theorem execAttach_queueChange (h : execAttach a s = .next t) : QueueChange s t := by
  refine writeAccess_queueChange h ?_
  split
  · exact (Level.answer ..).change
  · rename_i refusal
    simp only [attachRefusal, firstRefusal_eq_none_iff, List.forall_mem_cons, refuseIf_eq_none_iff] at refusal
    obtain ⟨-, online, retiring, -⟩ := refusal
    have offline : (s.agent a).state = .offline := by cases state : (s.agent a).state <;> simp_all
    exact .after (.answer ..) (.attach offline)

/-- A queue that pauses for the retire of its consumer (R119). -/
theorem RecordKept.pauseFor (n : Nat) (a : AgentId) (x : Queue) : RecordKept n x (x.pauseFor a) := by
  unfold Queue.pauseFor
  split
  · rename_i live
    refine .of_state (fun sound => sound.setState ?_ ?_ ⟨nofun, nofun⟩ nofun) (fun _ => nofun) nofun le_rfl
    all_goals rw [live.2]; exact nofun
  · exact .refl n x

theorem Recorded.beginRetire (s : State) (a : AgentId) (cause : RetireCause) :
    Recorded s (beginRetire a cause s) where
  toSameEntries := (Quiet.beginRetire a cause s).toSameEntries
  record q := by
    have paused : (Machine.beginRetire a cause s).queue q = (s.queue q).pauseFor a := Table.get_map ..
    rw [paused]
    exact .pauseFor ..

theorem execDetach_queueChange (h : execDetach a s = .next t) : QueueChange s t := by
  refine writeAccess_queueChange h ?_
  split
  · exact (Level.answer ..).change
  · exact .after (.answer ..) (.records (.beginRetire ..))

theorem execRetire_queueChange (h : execRetire a s = .next t) : QueueChange s t := by
  refine writeAccess_queueChange h ?_
  split
  · exact .after (.controlAnswer ..) (.records (.beginRetire ..))
  · exact (Level.controlAnswer ..).change

theorem execRetireFreeStep_queueChange (h : execRetireFreeStep a s = .next t) : QueueChange s t := by
  refine Level.change ?_
  unfold execRetireFreeStep at h
  split at h
  · rename_i c
    split at h
    · cases h; exact .after (.setAgent rfl) (.giveBack ..)
    · cases h; exact .after (.offerEvent ..) (.setAgent c.2.symm)
  · cases h; exact .refl s

theorem execUnknownAgentCommand_queueChange {code : Byte} (h : execUnknownAgentCommand a code s = .next t) :
    QueueChange s t := by
  unfold execUnknownAgentCommand at h
  split at h
  · exact writeAccess_queueChange h (Level.answer ..).change
  · cases h

theorem execInterruptEnable_queueChange {w : Word} (h : execInterruptEnable a w s = .next t) : QueueChange s t := by
  refine writeAccess_queueChange h (Level.change ?_)
  dsimp only
  split
  · exact .setAgent rfl
  · exact .refl s

theorem execNotice_queueChange (h : execNotice a s = .next t) : QueueChange s t := by
  refine readAccess_queueChange h (Level.change ?_)
  dsimp only
  split
  · split <;> exact .after (.returns ..) (.setAgent rfl)
  · exact .returns ..

/-! ### The aperture -/

theorem execBindWrite_queueChange {w : Word} (h : execBindWrite a w s = .next t) : QueueChange s t := by
  refine writeAccess_queueChange h (Level.change ?_)
  dsimp only
  split
  · exact .answer ..
  · exact .after (.answer ..) (.setAgent rfl)

theorem execBindRead_queueChange (h : execBindRead a s = .next t) : QueueChange s t := by
  refine readAccess_queueChange h (Level.change ?_)
  split <;> exact .after (.returns ..) (.answer ..)

theorem execApertureRead_queueChange {m : BitVec 9} {lanes : BitVec 4} (h : execApertureRead a m lanes s = .next t) :
    QueueChange s t := by
  refine takeAccess_queueChange h (.returns ..) fun h => Level.change ?_
  dsimp only at h
  split at h
  · cases h; exact .after (.returns ..) (.answer ..)
  · split at h <;> cases h
    exact .returns ..

theorem execApertureWrite_queueChange {m : BitVec 9} {lanes : BitVec 4} {w : Word}
    (h : execApertureWrite a m lanes w s = .next t) : QueueChange s t := by
  refine takeAccess_queueChange h (.refl s) fun h => Level.change ?_
  dsimp only at h
  split at h
  · cases h; exact .answer ..
  · split at h <;> cases h
    exact .of_records

end Ports

end Sys2Proof.Machine

end

section

-- Taken one after the other, the proofs need one thread (see Tests/Slice0.lean).
set_option Elab.async false

namespace Sys2Proof.Machine

section Control

variable {s t : State}

/-! ### The control page -/

/-- A configuration write is the change of its register, or nothing but the result record. -/
theorem configure_queueChange {offset n : Nat} {refusal : Option ControlCode} {change : Option State}
    (h : refusal = none → ∀ t ∈ change, QueueChange s t) : QueueChange s (configure offset n refusal change s) := by
  unfold configure
  dsimp only
  split
  · exact (Level.controlAnswer ..).change
  · exact (Level.controlAnswer ..).change
  · exact .after (.controlAnswer ..) (h rfl _ rfl)

theorem execUnknownControlCommand_queueChange {w : Word} (h : execUnknownControlCommand w s = .next t) :
    QueueChange s t := by
  unfold execUnknownControlCommand at h
  split at h
  · refine writeAccess_queueChange h (Level.change ?_)
    split <;> exact .controlAnswer ..
  · cases h

theorem execSupervisorEvent_queueChange (h : execSupervisorEvent s = .next t) : QueueChange s t := by
  refine readAccess_queueChange h (Level.change ?_)
  split <;> exact .after (.returns ..) .of_records

theorem execPoolDefinition_queueChange {p : PoolId} {w : Word} (h : execPoolDefinition p w s = .next t) :
    QueueChange s t := by
  refine writeAccess_queueChange h (configure_queueChange fun _ u hu => Level.change ?_)
  obtain ⟨x, -, rfl⟩ := Option.map_eq_some_iff.mp hu
  exact .of_records

/-- The record of a DISABLED queue, which has no entries, is configured (R41). -/
theorem RecordKept.queueOfWord {n : Nat} {x y : Queue} {half : Half} {w : Word}
    (h : queueOfWord x half w = some y) (disabled : x.state = .disabled) : RecordKept n x y := by
  have none (roomy : Roomy n x) : n = 0 := roomy.disabled disabled
  have idle (sound : QueueSound x) : x.flushCount = 0 := sound.flush_idle (by rw [disabled]; exact nofun)
  cases half with
  | first =>
    simp only [Machine.queueOfWord, Option.ite_none_right_eq_some, Option.some.injEq] at h
    obtain ⟨-, rfl⟩ := h
    refine ⟨fun sound => { sound with limit_range := ?_ }, fun _ roomy => roomy.congr rfl rfl rfl,
      fun _ roomy => .inl (none roomy)⟩
    have := (w.extractLsb' 4 3).isLt
    dsimp only
    omega
  | second =>
    simp only [Machine.queueOfWord, Option.ite_none_right_eq_some, Option.some.injEq] at h
    obtain ⟨⟨depthPos, depthMax, thresholdPos, thresholdMax, -⟩, rfl⟩ := h
    refine ⟨fun sound => { sound with
        depth_range := ⟨depthPos, depthMax⟩, threshold_range := ⟨thresholdPos, thresholdMax⟩ },
      fun sound roomy => ⟨⟨?_, roomy.disabled⟩, roomy.draining⟩, fun _ roomy => .inl (none roomy)⟩
    rw [none roomy]
    exact (idle sound).le.trans (Nat.zero_le _)

theorem execQueueConfiguration_queueChange {q : QueueId} {half : Half} {w : Word}
    (h : execQueueConfiguration q half w s = .next t) : QueueChange s t := by
  refine writeAccess_queueChange h (configure_queueChange fun refusal u hu => ?_)
  simp only [firstRefusal_eq_none_iff, List.forall_mem_cons, refuseIf_eq_none_iff, bne_eq_false_iff_eq] at refusal
  obtain ⟨x, written, rfl⟩ := Option.map_eq_some_iff.mp hu
  obtain ⟨urgent, normal⟩ := queueOfWord_lists written
  exact .records (.setQueue urgent normal (.queueOfWord written refusal.2.1))

theorem execAgentConfiguration_queueChange {a : AgentId} {w : Word}
    (h : execAgentConfiguration a w s = .next t) : QueueChange s t := by
  refine writeAccess_queueChange h (configure_queueChange fun _ u hu => Level.change ?_)
  obtain ⟨x, written, rfl⟩ := Option.map_eq_some_iff.mp hu
  exact .setAgent (agentOfWord_kept written).2.1

theorem execGroupMemberSet_queueChange {g : GroupId} {w : Word} (h : execGroupMemberSet g w s = .next t) :
    QueueChange s t := by
  refine writeAccess_queueChange h (configure_queueChange fun _ u hu => Level.change ?_)
  cases hu; exact .of_records

theorem execDeadLetterSelection_queueChange {w : Word} (h : execDeadLetterSelection w s = .next t) :
    QueueChange s t := by
  refine writeAccess_queueChange h (configure_queueChange fun _ u hu => Level.change ?_)
  obtain ⟨x, -, rfl⟩ := Option.map_eq_some_iff.mp hu
  exact .of_records

theorem execTimebasePrescaler_queueChange {w : Word} (h : execTimebasePrescaler w s = .next t) :
    QueueChange s t := by
  refine writeAccess_queueChange h (configure_queueChange fun _ u hu => Level.change ?_)
  obtain ⟨x, -, rfl⟩ := Option.map_eq_some_iff.mp hu
  exact .of_records

theorem execSupervisorInterruptEnable_queueChange {w : Word}
    (h : execSupervisorInterruptEnable w s = .next t) : QueueChange s t := by
  refine writeAccess_queueChange h (configure_queueChange fun _ u hu => Level.change ?_)
  obtain ⟨x, -, rfl⟩ := Option.map_eq_some_iff.mp hu
  exact .of_records

/-! ### The controller -/

theorem execFormat_queueChange (h : execFormat s = .next t) : QueueChange s t := by
  refine writeAccess_queueChange h (Level.change ?_)
  split
  · exact .controlAnswer ..
  · exact .controlAnswer ..
  all_goals
    split
    · exact .controlAnswer ..
    · exact .after (.controlAnswer ..) .of_records

theorem execFormatBuildStep_queueChange (h : execFormatBuildStep s = .next t) : QueueChange s t := by
  refine Level.change ?_
  unfold execFormatBuildStep at h
  split at h
  · rename_i c
    cases h
    rcases buildFrame_cases ⟨s.built, c.2.2⟩ s with e | ⟨base, size, e⟩ <;> rw [e] <;> exact .of_records
  · cases h; exact .refl s

theorem execFormatCompletion_queueChange (h : execFormatCompletion s = .next t) : QueueChange s t := by
  refine Level.change ?_
  unfold execFormatCompletion at h
  split at h
  · cases h; exact .after (.offerEvent ..) .of_records
  · cases h; exact .refl s

theorem execScrubCompletion_queueChange (h : execScrubCompletion s = .next t) : QueueChange s t := by
  refine Level.change ?_
  unfold execScrubCompletion at h
  split at h
  · cases h; exact .after (.reArmTest ..) .of_records
  · cases h; exact .refl s

/-- RESTART disables every queue and keeps its configuration (R44). -/
theorem execRestart_queueChange (h : execRestart s = .next t) : QueueChange s t := by
  have queue (q : QueueId) : (restartState s).queue q = (s.queue q).restarted := Table.get_map ..
  refine writeAccess_queueChange h (.after (.controlAnswer ..) (.emptied (restartState_emptied s) (fun q sound => ?_)
    fun q => ?_))
  · rw [queue]
    exact sound.restarted
  · rw [queue]
    exact ⟨rfl, rfl⟩

/-- PORST# gives every queue its power-on record (R43). -/
theorem execPorstAssert_queueChange (h : execPorstAssert s = .next t) : QueueChange s t := by
  cases h
  refine .emptied ?_ (fun q _ => reset_queueLaw q) fun q => ?_
  · exact { reset_emptied with controller := .inl rfl, freeEntries := by simp only [State.reset] }
  · change (State.reset.queue q).state = _ ∧ (State.reset.queue q).flushCount = 0
    rw [reset_queue]
    exact ⟨rfl, rfl⟩

theorem execInitialisationEnd_queueChange (h : execInitialisationEnd s = .next t) : QueueChange s t := by
  refine Level.change ?_
  unfold execInitialisationEnd at h
  split at h
  · cases h; exact .of_records
  · cases h; exact .refl s

/-! ### Queue commands -/

/-- A queue command is its transition, or nothing but the result record. -/
theorem queueCommand_queueChange {r : Requester} {q : QueueId} {k : Action} {code : Byte} {c : ResultCode}
    {transition : State → Option State} (h : ∀ t ∈ transition s, Recorded s t) :
    QueueChange s (queueCommand r q k code c transition s) := by
  refine .records ?_
  unfold queueCommand
  split
  · split
    · exact (Level.answer ..).recorded
    · split
      · exact .level (.answer ..) (h _ ‹_›)
      · exact (Level.answer ..).recorded
  · split
    · split
      · exact .level (.controlAnswer ..) (h _ ‹_›)
      · exact (Level.controlAnswer ..).recorded
    · exact (Level.controlAnswer ..).recorded

/-- A queue that is neither DRAINING nor FLUSHING goes over to OPEN, PAUSED or CLOSED. -/
theorem Recorded.setState {q : QueueId} {state : QueueState}
    (idle : (s.queue q).state ≠ .draining ∧ (s.queue q).state ≠ .flushing)
    (other : state ≠ .draining ∧ state ≠ .flushing ∧ state ≠ .disabled)
    (empty : state = .closed → QueueSound (s.queue q) → (s.queue q).urgent = [] ∧ (s.queue q).normal = []) :
    Recorded s (s.setQueue q { s.queue q with state := state }) := by
  obtain ⟨drains, flushes, disables⟩ := other
  refine .setQueue rfl rfl (.of_state (fun sound => sound.setState idle.1 idle.2 ⟨drains, flushes⟩ fun c => ?_)
    (fun _ c => absurd c disables) (fun c => absurd c drains) le_rfl)
  exact empty (c.resolve_right disables) sound

theorem openChange_recorded {q : QueueId} (h : t ∈ openChange q s) : Recorded s t := by
  unfold openChange at h
  split at h <;> cases h
  · exact .setQueue rfl rfl (.of_state (fun sound => sound.settled ⟨nofun, nofun⟩ nofun) (fun _ => nofun) nofun
      (Nat.zero_le _))
  · rename_i closed
    refine .setState ?_ ⟨nofun, nofun, nofun⟩ nofun
    rw [closed]; exact ⟨nofun, nofun⟩

theorem pauseChange_recorded {q : QueueId} (h : t ∈ pauseChange q s) : Recorded s t := by
  unfold pauseChange at h
  split at h <;> cases h
  rename_i live
  refine .setState ?_ ⟨nofun, nofun, nofun⟩ nofun
  rw [live]; exact ⟨nofun, nofun⟩

theorem resumeChange_recorded {q : QueueId} (h : t ∈ resumeChange q s) : Recorded s t := by
  unfold resumeChange at h
  split at h <;> cases h
  rename_i paused
  refine .setState ?_ ⟨nofun, nofun, nofun⟩ nofun
  rw [paused]; exact ⟨nofun, nofun⟩

/-- DRAIN closes a queue without entries, and of one with entries begins the drain (R97). -/
theorem drainChange_recorded {r : Requester} {q : QueueId} (h : t ∈ drainChange r q s) : Recorded s t := by
  have live : (s.queue q).state = .open ∨ (s.queue q).state = .paused := by
    unfold drainChange at h
    split at h
    · exact .inl ‹_›
    · exact .inr ‹_›
    all_goals cases h
  have idle : (s.queue q).state ≠ .draining ∧ (s.queue q).state ≠ .flushing := by
    rcases live with state | state <;> rw [state] <;> exact ⟨nofun, nofun⟩
  rw [drainChange_eq live] at h
  split at h <;> cases h
  · rename_i none
    refine .level (.report ..) (.setState idle ⟨nofun, nofun, nofun⟩ fun _ _ => ?_)
    simpa [queuedCount, Nat.add_eq_zero_iff] using none.1
  · rename_i used
    refine .setQueue rfl rfl (.of_state (fun sound => ?_) (fun _ => nofun) (fun _ => by omega) le_rfl)
    exact sound.requested (.inl rfl) fun _ => sound.flush_idle idle.2

theorem flushChange_recorded {r : Requester} {q : QueueId} (h : t ∈ flushChange r q s) : Recorded s t := by
  unfold flushChange at h
  split at h <;> cases h
  all_goals exact .setQueue rfl rfl (.of_state (fun sound => sound.requested (.inr rfl) fun other => absurd rfl other)
    (fun _ => nofun) nofun (Nat.zero_le _))

/-- A CLOSED queue without claims has no entries (R39). -/
theorem disableChange_recorded {q : QueueId} (h : t ∈ disableChange q s) : Recorded s t := by
  unfold disableChange at h
  split at h
  · rename_i closed
    split at h <;> cases h
    rename_i unclaimed
    refine .setQueue rfl rfl (.of_state (fun sound => sound.setState ?_ ?_ ⟨nofun, nofun⟩ fun _ => ?_)
      (fun sound _ => ?_) nofun le_rfl)
    · rw [closed]; exact nofun
    · rw [closed]; exact nofun
    · exact sound.closed_empty (.inl closed)
    · obtain ⟨urgent, normal⟩ := sound.closed_empty (.inl closed)
      rw [unclaimed, queuedCount, urgent, normal]
      rfl
  all_goals cases h

theorem execClearDiscard_queueChange {q : QueueId} (h : execClearDiscard q s = .next t) : QueueChange s t := by
  refine writeAccess_queueChange h (.after (.controlAnswer ..) (.records (.setQueue rfl rfl ?_)))
  exact ⟨fun sound => { sound with discards_range := Nat.zero_le _ }, fun _ roomy => roomy.congr rfl rfl rfl,
    fun _ _ => .inr le_rfl⟩

/-- A flush step drops the front entry of the queue, whose home it is (R102). -/
theorem flushDrop_queueChange {q : QueueId} {e : EntryId} (flushing : (s.queue q).state = .flushing)
    (front : (s.queue q).front = some e) : QueueChange s (flushDrop q e s) := by
  let u := s.setQueue q (s.queue q).popFront
  have popped : u.queue q = (s.queue q).popFront := State.setQueue_queue_self ..
  have shrunk (r : QueueId) : Shrunk (s.queue r) (u.queue r) := by
    rw [State.setQueue_queue]
    split
    · rename_i same; rw [same]; exact .popFront _
    · exact .refl _
  have home (law : EntryLaw s) : (u.entry e).home = q := by
    rcases mem_of_front front with hu | hn
    · exact (law.urgent_place q e hu).2.1
    · exact (law.normal_place q e hn).2.1
  have state : (u.queue q).state = .flushing := by rw [(shrunk q).record]; exact flushing
  refine flushed_queueChange (.front q front (.refl _)) shrunk home state ?_
  have counted : flushDrop q e s = dropReference (s.entry e).frame ((freeEntry e u).setQueue q
      { u.queue q with flushCount := (u.queue q).flushCount + 1 }) := by
    rw [popped]
    simp [flushDrop, freeEntry, u, State.setQueue, State.setEntry, State.entry]
  rw [counted]
  exact .dropReference ..

theorem execFlushStep_queueChange {q : QueueId} (h : execFlushStep q s = .next t) : QueueChange s t := by
  unfold execFlushStep at h
  split at h
  · rename_i flushing
    split at h
    · rename_i e front
      cases h; exact flushDrop_queueChange flushing front
    · rename_i none
      cases h
      have empty : (s.queue q).urgent = [] ∧ (s.queue q).normal = [] := by
        unfold Queue.front at none
        split at none
        · cases none
        · exact ⟨‹_›, by simpa using none⟩
      exact .records (.level (.report ..) (.setQueue rfl rfl (.of_state
        (fun sound => sound.settled ⟨nofun, nofun⟩ fun _ => empty) (fun _ => nofun) nofun (Nat.zero_le _))))
  · cases h; exact (Level.refl s).change

/-! ### Pins, the timer and held accesses -/

theorem execIgnoredWrite_queueChange {p : Port} {page : BitVec 4} {offset : BitVec 10} {w : Word}
    (h : execIgnoredWrite p page offset w s = .next t) : QueueChange s t := by
  unfold execIgnoredWrite at h
  split at h
  · exact writeAccess_queueChange h (Level.refl s).change
  · cases h

theorem Recorded.retireForPort (s : State) (a : AgentId) : Recorded s (retireForPort s a) := by
  unfold Machine.retireForPort
  split
  · exact .beginRetire ..
  · exact (Level.refl s).recorded

theorem Recorded.retireForPort_foldl : ∀ (l : List AgentId) (s : State),
    Recorded s (l.foldl Machine.retireForPort s)
  | [], s => (Level.refl s).recorded
  | a :: l, s => (Recorded.retireForPort s a).trans (retireForPort_foldl l _)

theorem execPortResetAssert_queueChange {p : Port} (h : execPortResetAssert p s = .next t) : QueueChange s t := by
  refine .records ?_
  unfold execPortResetAssert at h
  split at h
  · cases h; exact (Level.refl s).recorded
  · cases h; exact (Level.setResetLine ..).recorded.trans (.retireForPort_foldl ..)

theorem execTick_queueChange (h : execTick s = .next t) : QueueChange s t := by
  refine Level.change ?_
  cases h
  split
  · exact .of_records
  · exact .refl s

/-- Every command but the release of a port's reset line is a change. -/
theorem exec_queueChange_of_not_release {c : Instr} (hc : ∀ p, c ≠ .portResetRelease p)
    (h : exec c s = .next t) : QueueChange s t := by
  cases c with
  | alloc a p => exact execAlloc_queueChange h
  | receive a q => exact execReceive_queueChange h
  | receiveAny a => exact execReceiveAny_queueChange h
  | post a w => exact writeAccess_queueChange h (postWrite_queueChange a w s)
  | postToGroup a w => exact writeAccess_queueChange h (postWrite_queueChange a w s)
  | reply a w => exact execReply_queueChange h
  | free a w => exact execFree_queueChange h
  | complete a w => exact execComplete_queueChange h
  | take a w => exact execTake_queueChange h
  | release a w => exact execRelease_queueChange h
  | bindWrite a w => exact execBindWrite_queueChange h
  | bindRead a => exact execBindRead_queueChange h
  | attach a => exact execAttach_queueChange h
  | detach a => exact execDetach_queueChange h
  | openQueue r q => exact writeAccess_queueChange h (queueCommand_queueChange fun _ => openChange_recorded)
  | pause r q => exact writeAccess_queueChange h (queueCommand_queueChange fun _ => pauseChange_recorded)
  | resume r q => exact writeAccess_queueChange h (queueCommand_queueChange fun _ => resumeChange_recorded)
  | drain r q => exact writeAccess_queueChange h (queueCommand_queueChange fun _ => drainChange_recorded)
  | flush r q => exact writeAccess_queueChange h (queueCommand_queueChange fun _ => flushChange_recorded)
  | unknownAgentCommand a code => exact execUnknownAgentCommand_queueChange h
  | notice a => exact execNotice_queueChange h
  | stagingDestination a w => exact writeAccess_queueChange h (Level.stagingWrite ..).change
  | stagingAttributes a w => exact writeAccess_queueChange h (Level.stagingWrite ..).change
  | stagingLength a w => exact writeAccess_queueChange h (Level.stagingWrite ..).change
  | interruptEnable a w => exact execInterruptEnable_queueChange h
  | apertureRead a m lanes => exact execApertureRead_queueChange h
  | apertureWrite a m lanes w => exact execApertureWrite_queueChange h
  | format => exact execFormat_queueChange h
  | restart => exact execRestart_queueChange h
  | disable q => exact writeAccess_queueChange h (queueCommand_queueChange fun _ => disableChange_recorded)
  | retire a => exact execRetire_queueChange h
  | clearDiscard q => exact execClearDiscard_queueChange h
  | unknownControlCommand w => exact execUnknownControlCommand_queueChange h
  | supervisorEvent => exact execSupervisorEvent_queueChange h
  | poolDefinition p w => exact execPoolDefinition_queueChange h
  | queueConfiguration q half w => exact execQueueConfiguration_queueChange h
  | agentConfiguration a w => exact execAgentConfiguration_queueChange h
  | groupMemberSet g w => exact execGroupMemberSet_queueChange h
  | deadLetterSelection w => exact execDeadLetterSelection_queueChange h
  | timebasePrescaler w => exact execTimebasePrescaler_queueChange h
  | supervisorInterruptEnable w => exact execSupervisorInterruptEnable_queueChange h
  | ignoredWrite p page offset w => exact execIgnoredWrite_queueChange h
  | porstAssert => exact execPorstAssert_queueChange h
  | porstRelease => cases h; exact (Level.of_records).change
  | initialisationEnd => exact execInitialisationEnd_queueChange h
  | portResetAssert p => exact execPortResetAssert_queueChange h
  | portResetRelease p => exact absurd rfl (hc p)
  | tick => exact execTick_queueChange h
  | claimExpiry => exact execClaimExpiry_queueChange h
  | formatBuildStep => exact execFormatBuildStep_queueChange h
  | formatCompletion => exact execFormatCompletion_queueChange h
  | scrubCompletion => exact execScrubCompletion_queueChange h
  | flushStep q => exact execFlushStep_queueChange h
  | retireClaimStep a => exact execRetireClaimStep_queueChange h
  | retireFreeStep a => exact execRetireFreeStep_queueChange h

end Control

/-! ## What every step keeps -/

/-- A change of the queues that is a chain of moves: one command, one TCLK period, or the release of a port's reset
line without the accesses that it held. -/
structure QueueStep (s t : State) : Prop where
  change : QueueChange s t
  moves : Moves s t

/-- A chain of them. -/
def QueueSteps : State → State → Prop := Relation.ReflTransGen QueueStep

/-- What every change keeps, a chain of them keeps. -/
theorem QueueSteps.keeps {P : State → Prop} (h : ∀ s t, QueueStep s t → P s → P t) {s t : State}
    (steps : QueueSteps s t) (hs : P s) : P t := by
  induction steps with
  | refl => exact hs
  | tail _ step ih => exact h _ _ step ih

theorem Level.plainRead (p : Port) (x : Place) (s : State) : Level s (plainRead p x s) := by
  unfold Machine.plainRead
  split
  · exact .setHeldAccesses ..
  · exact .returns ..

theorem Level.clockPeriod (s : State) : Level s (clockPeriod s) := by
  unfold Machine.clockPeriod
  split
  · split <;> exact .of_records
  · exact .refl s

theorem takeHeld_queueStep {p : Port} {c : HeldAccess} {s t : State} (h : takeHeld p c s = .next t) :
    QueueStep s t := by
  refine ⟨?_, takeHeld_moves h⟩
  cases c with
  | read x => cases h; exact (Level.plainRead ..).change
  | command c =>
    by_cases access : (accessPort c).isSome = true
    · rw [takeHeld, takeCommand_eq_exec access] at h
      exact exec_queueChange_of_not_release (fun p hp => by simp [hp, accessPort] at access) h
    · rw [takeHeld, takeCommand_of_not_access (by simpa using access)] at h
      cases h; exact (Level.refl s).change

theorem takeHeldAll_queueSteps {p : Port} : ∀ {l : List HeldAccess} {s t : State},
    takeHeldAll p l s = .next t → QueueSteps s t
  | [], s, t, h => by cases h; exact .refl
  | c :: l, s, t, h => by
    simp only [takeHeldAll] at h
    split at h
    · exact .head (takeHeld_queueStep ‹_›) (takeHeldAll_queueSteps h)
    · cases h
    · cases h

theorem exec_queueSteps {c : Instr} {s t : State} (h : exec c s = .next t) : QueueSteps s t := by
  by_cases hc : ∃ p, c = .portResetRelease p
  · obtain ⟨p, rfl⟩ := hc
    have released : QueueStep s ((s.setResetLine p false).setHeldAccesses p []) :=
      ⟨((Level.setResetLine ..).trans (.setHeldAccesses ..)).change,
        ((Quiet.setResetLine ..).trans (.setHeldAccesses ..)).moves⟩
    exact .head released (takeHeldAll_queueSteps h)
  · exact .single ⟨exec_queueChange_of_not_release (fun p hp => hc ⟨p, hp⟩) h, exec_moves h⟩

/-- Every step is a chain of such changes. -/
theorem step_queueSteps {s t : State} (h : step s = .next t) : QueueSteps s t := by
  unfold step at h
  split at h
  · rename_i c rest _
    have taken : QueueStep s { s with pending := rest } := ⟨(Level.of_records).change, (Quiet.of_records).moves⟩
    exact .head taken (exec_queueSteps h)
  · cases h
    exact .single ⟨(Level.clockPeriod s).change, (Quiet.clockPeriod s).moves⟩

/-- What the law of the depth needs of the others, to be kept by a chain of changes. -/
structure DepthKept (s : State) : Prop extends EntriesKept s where
  queues : QueueLaw s
  depth : DepthLawWith [] [] s

theorem QueueStep.keeps_depthKept {s t : State} (step : QueueStep s t) (h : DepthKept s) : DepthKept t where
  toEntriesKept := step.moves.keeps_entries h.toEntriesKept
  queues := step.change.keeps_queueLaw h.queues
  depth := step.change.keeps_depth h.idle h.entries h.queues h.depth

/-- Settles O56: every change of a step keeps the law, with the entries and the queues that it rests on. -/
theorem everyStepKeepsDepthLaw : Obligations.EveryStepKeepsDepthLaw := by
  intro s t entries agents queues depth h
  have kept := (step_queueSteps h).keeps (fun _ _ => QueueStep.keeps_depthKept)
    ⟨⟨agents.offlineIdle, entries⟩, queues, (depthLaw_iff entries queues).mp depth⟩
  exact (depthLaw_iff kept.entries kept.queues).mpr kept.depth

/-- Settles O53: every change of a step keeps every queue record sound; and the flush count is within the depth
limit with the entries (`everyStepKeepsDepthLaw`). -/
theorem everyStepKeepsQueueLaw : Obligations.EveryStepKeepsQueueLaw := by
  intro s t queues h
  have sound : QueueLaw t := (step_queueSteps h).keeps (fun _ _ step => step.change.keeps_queueLaw) queues
  refine ⟨sound, fun entries agents depth q => ?_⟩
  have within := (everyStepKeepsDepthLaw s t entries agents queues depth h).within q
  have range := (sound q).depth_range
  omega

end Sys2Proof.Machine

end

/-!
The queue commands that change a state at once and those that are refused (R34 to R39), and the writes of Pool
Definition and Queue Configuration (R41, R154).
-/

section

-- Taken one after the other, the proofs need one thread (see Tests/Slice0.lean).
set_option Elab.async false

namespace Sys2Proof.Machine

/-! ## The five queue commands of both pages -/

section QueueCommand

variable {s : State} {r : Requester} {q : QueueId} {c : Instr} {starts : List QueueState} {action : Action}
  {code : Byte}

/-- The change that the queue command of an action makes (R37, R38, R97, R101). -/
def changeOf (r : Requester) (q : QueueId) : Action → State → Option State
  | .open => openChange q
  | .pause => pauseChange q
  | .resume => resumeChange q
  | .drain => drainChange r q
  | .flush => flushChange r q
  | _ => fun _ => none

/-- What an agent is answered where the queue's state allows no such change (R35). -/
def refusedCode (action : Action) : ResultCode := if action = .flush then .flushing else .badState

/-- On a port that takes accesses each of the five runs as the queue command of its action and code (R35, R36). -/
theorem exec_queueCommand (command : (c, starts, action, code) ∈ queueCommands r q)
    (takes : PortTakes s (requesterPort r)) :
    exec c s = .next (queueCommand r q action code (refusedCode action) (changeOf r q action) s) := by
  simp only [queueCommands, List.mem_cons, Prod.mk.injEq, List.not_mem_nil, or_false] at command
  rcases command with ⟨rfl, -, rfl, rfl⟩ | ⟨rfl, -, rfl, rfl⟩ | ⟨rfl, -, rfl, rfl⟩ | ⟨rfl, -, rfl, rfl⟩ |
    ⟨rfl, -, rfl, rfl⟩ <;> exact writeAccess_of_takes takes ..

/-- Each makes its change from the states that R34 gives it, and from no other. -/
theorem changeOf_isSome_iff (command : (c, starts, action, code) ∈ queueCommands r q) :
    (changeOf r q action s).isSome = true ↔ (s.queue q).state ∈ starts := by
  have drain : (drainChange r q s).isSome = true ↔ (s.queue q).state = .open ∨ (s.queue q).state = .paused := by
    constructor
    · intro changes
      unfold drainChange at changes
      cases state : (s.queue q).state <;> simp_all
    · intro live
      rw [drainChange_eq live]
      split <;> rfl
  simp only [queueCommands, List.mem_cons, Prod.mk.injEq, List.not_mem_nil, or_false] at command
  rcases command with ⟨-, rfl, rfl, -⟩ | ⟨-, rfl, rfl, -⟩ | ⟨-, rfl, rfl, -⟩ | ⟨-, rfl, rfl, -⟩ | ⟨-, rfl, rfl, -⟩
  · simp only [changeOf, openChange]
    cases (s.queue q).state <;> simp
  · simp only [changeOf, pauseChange]
    cases (s.queue q).state <;> simp
  · simp only [changeOf, resumeChange]
    cases (s.queue q).state <;> simp
  · simpa [changeOf] using drain
  · simp only [changeOf, flushChange]
    cases (s.queue q).state <;> simp

/-- The checks of an agent page before the transition (R35). -/
theorem queueCommandRefusal_eq (s : State) (a : AgentId) (q : QueueId) : queueCommandRefusal s a q =
    (prefixAnswer s a).or
      (if (s.queue q).state = .disabled then some .noQueue
      else if (s.queue q).consumer ≠ a then some .notConsumer
      else none) := by
  rw [queueCommandRefusal, firstRefusal_cons, commonPrefix_eq]
  simp only [firstRefusal_refuseIf, firstRefusal_nil, beq_iff_eq, bne_iff_ne]

/-- An agent page answers its first check that fails, else that the transition is not possible (R35). -/
theorem queueCommand_agent_refused {a : AgentId} {answer refused : ResultCode} {transition : State → Option State}
    (refusal : (queueCommandRefusal s a q).or (if (transition s).isSome = true then none else some refused) =
      some answer) :
    queueCommand (.agent a) q action code refused transition s =
      s.answer a answer action (BitVec.ofNat 32 q.val) := by
  rw [queueCommand]
  cases check : queueCommandRefusal s a q with
  | some other =>
    rw [check, Option.some_or] at refusal
    cases refusal
    rfl
  | none =>
    rw [check, Option.none_or] at refusal
    cases change : transition s with
    | some t => rw [change] at refusal; cases refusal
    | none => rw [change] at refusal; cases refusal; rfl

/-- The control page answers WRONG_STATE outside RUNNING, and where the transition is not possible (R36). -/
theorem queueCommand_control_refused {refused : ResultCode} {transition : State → Option State}
    (refusal : s.controller ≠ .running ∨ ¬(transition s).isSome = true) :
    queueCommand .control q action code refused transition s = s.controlAnswer .wrongState (.command code) q.val := by
  rw [queueCommand]
  split
  · rename_i running
    have none : transition s = none := by simpa using refusal.resolve_left (not_not.mpr running)
    rw [none]
  · rfl

/-- DISABLE is possible from CLOSED without claims (R39). -/
theorem disableChange_eq (s : State) (q : QueueId) : disableChange q s =
    if (s.queue q).state = .closed ∧ claimCount s q = 0 then
      some (s.setQueue q { s.queue q with state := .disabled })
    else none := by
  unfold disableChange
  cases (s.queue q).state <;> simp

/-- A queue command that is served makes its change and answers OK (R35, R36). -/
theorem exec_queueCommand_served {t : State} (command : (c, starts, action, code) ∈ queueCommands r q)
    (served : CommandServed s r q) (change : changeOf r q action s = some t) :
    exec c s = .next (commandOk r q action code t) := by
  rw [exec_queueCommand command served.portTakes, queueCommand_served served change]

end QueueCommand

/-- Settles O37: each command runs as the queue command of its action (`exec_queueCommand`), which changes the queue
from the states of R34 (`changeOf_isSome_iff`). -/
theorem queueCommandsRefused : Obligations.QueueCommandsRefused := by
  intro s q
  refine ⟨fun a c starts action code answer command takes refusal => ?_,
    fun c starts action code command takes refusal => ?_, fun takes refusal => ?_⟩
  · rw [exec_queueCommand command takes, queueCommand_agent_refused]
    rw [← refusal, queueCommandRefusal_eq]
    simp only [changeOf_isSome_iff command, refusedCode]
    cases prefixAnswer s a with
    | some other => rfl
    | none =>
      rw [Option.none_or, Option.none_or]
      split_ifs <;> rfl
  · rw [exec_queueCommand command takes, queueCommand_control_refused]
    rw [changeOf_isSome_iff command]
    exact refusal
  · have run : exec (.disable q) s = .next (queueCommand .control q .none 8 .badState (disableChange q) s) :=
      writeAccess_of_takes takes ..
    rw [run, queueCommand_control_refused]
    rw [disableChange_eq]
    refine refusal.imp_right fun other changes => ?_
    split at changes
    · rename_i possible
      exact other.elim (· possible.1) (· possible.2)
    · cases changes

/-- Settles O35: each command is served, so it makes its change and answers. -/
theorem queueStateCommandsAccepted : Obligations.QueueStateCommandsAccepted := by
  intro s r q
  dsimp only
  refine ⟨fun served => ⟨fun closed => ?_, fun _ disabled => ?_, fun live => ?_, fun paused => ?_⟩,
    fun line running closed unclaimed => ?_, fun takes => ?_⟩
  · refine exec_queueCommand_served (starts := [.disabled, .closed]) (by simp [queueCommands]) served ?_
    rw [changeOf, openChange, closed]
  · refine exec_queueCommand_served (starts := [.disabled, .closed]) (by simp [queueCommands]) served ?_
    rw [changeOf, openChange, disabled]
  · refine exec_queueCommand_served (starts := [.open]) (by simp [queueCommands]) served ?_
    rw [changeOf, pauseChange, live]
  · refine exec_queueCommand_served (starts := [.paused]) (by simp [queueCommands]) served ?_
    rw [changeOf, resumeChange, paused]
  · have served : CommandServed s .control q := ⟨line, running⟩
    have change := (disableChange_eq s q).trans (if_pos ⟨closed, unclaimed⟩)
    have run : exec (.disable q) s = .next (queueCommand .control q .none 8 .badState (disableChange q) s) :=
      writeAccess_of_takes served.portTakes ..
    rw [run, queueCommand_served served change]
    rfl
  · change execClearDiscard q s = _
    rw [execClearDiscard, writeAccess_of_takes takes]

/-! ## Pool Definition -/

/-- The bits outside the fields of a Pool Definition word, the armed flag apart (R168). -/
theorem poolMask_eq_zero_iff (w : Word) :
    w &&& 0x78000008#32 = 0 ↔ w.getLsbD 3 = false ∧ w.extractLsb' 27 4 = 0 := by
  have masks : 0x78000008#32 = 0x8#32 ||| 0x78000000#32 := by decide
  rw [masks, and_or_eq_zero_iff, and_mask_eq_zero_iff 3 1 w (by decide), and_mask_eq_zero_iff 27 4 w (by decide),
    extractLsb'_one_eq_zero_iff]

/-- The words that Pool Definition refuses with BAD_VALUE (R154, R168). -/
def BadPoolWord (w : Word) : Prop :=
  5 < (w.extractLsb' 0 3).toNat ∨ 1024 < (w.extractLsb' 4 11).toNat ∨ 1024 < (w.extractLsb' 16 11).toNat ∨
    w.getLsbD 3 = true ∨ w.extractLsb' 27 4 ≠ 0

theorem not_badPoolWord_iff (w : Word) : ¬BadPoolWord w ↔
    (w.extractLsb' 0 3).toNat < 6 ∧ (w.extractLsb' 4 11).toNat ≤ 1024 ∧ (w.extractLsb' 16 11).toNat ≤ 1024 ∧
      w &&& 0x78000008#32 = 0 := by
  simp only [BadPoolWord, not_or, not_lt, ne_eq, not_not, Bool.not_eq_true, poolMask_eq_zero_iff,
    Nat.lt_succ_iff]

theorem poolOfWord_bad {w : Word} (bad : BadPoolWord w) (x : Pool) : poolOfWord x w = none := by
  rw [poolOfWord]
  split
  · rename_i code
    exact if_neg fun good => (not_badPoolWord_iff w).mpr ⟨code, good⟩ bad
  · rfl

theorem poolOfWord_good {w : Word} (good : ¬BadPoolWord w) (x : Pool) : ∃ y, poolOfWord x w = some y ∧
    y.sizeCode.val = (w.extractLsb' 0 3).toNat ∧ y.count = (w.extractLsb' 4 11).toNat ∧
    y.scrub = w.getLsbD 15 ∧ y.lowWater = (w.extractLsb' 16 11).toNat ∧ y.armed = x.armed := by
  obtain ⟨code, ranges⟩ := (not_badPoolWord_iff w).mp good
  exact ⟨_, (dif_pos code).trans (if_pos ranges), rfl, rfl, rfl, rfl, rfl⟩

/-! ## Queue Configuration -/

theorem queueMask_eq_zero_iff (w : Word) :
    (w &&& 0x00000088#32 = 0 ↔ w.getLsbD 3 = false ∧ w.getLsbD 7 = false) ∧
      (w &&& 0xF800F800#32 = 0 ↔ w.extractLsb' 11 5 = 0 ∧ w.extractLsb' 27 5 = 0) := by
  have first : 0x88#32 = 0x8#32 ||| 0x80#32 := by decide
  have second : 0xF800F800#32 = 0xF800#32 ||| 0xF8000000#32 := by decide
  rw [first, second, and_or_eq_zero_iff, and_or_eq_zero_iff, and_mask_eq_zero_iff 3 1 w (by decide),
    and_mask_eq_zero_iff 7 1 w (by decide), and_mask_eq_zero_iff 11 5 w (by decide),
    and_mask_eq_zero_iff 27 5 w (by decide), extractLsb'_one_eq_zero_iff, extractLsb'_one_eq_zero_iff]
  exact ⟨.rfl, .rfl⟩

/-- The words that Queue Configuration refuses with BAD_VALUE (R41, R168). -/
def BadQueueWord (half : Half) (w : Word) : Prop :=
  match half with
  | .first => w.getLsbD 3 = true ∨ w.getLsbD 7 = true
  | .second =>
    (w.extractLsb' 0 11).toNat = 0 ∨ 1024 < (w.extractLsb' 0 11).toNat ∨ (w.extractLsb' 16 11).toNat = 0 ∨
      (w.extractLsb' 0 11).toNat < (w.extractLsb' 16 11).toNat ∨ w.extractLsb' 11 5 ≠ 0 ∨ w.extractLsb' 27 5 ≠ 0

/-- The record of a queue with the fields of a Queue Configuration word (R168). -/
def configured (x : Queue) (half : Half) (w : Word) : Queue :=
  match half with
  | .first =>
    { x with
      consumer := (w.extractLsb' 0 3).toFin, limit := (w.extractLsb' 4 3).toNat
      permission := w.extractLsb' 8 8, timeout := w.extractLsb' 16 16 }
  | .second => { x with depth := (w.extractLsb' 0 11).toNat, threshold := (w.extractLsb' 16 11).toNat }

theorem queueOfWord_bad {half : Half} {w : Word} (bad : BadQueueWord half w) (x : Queue) :
    queueOfWord x half w = none := by
  cases half with
  | first =>
    refine if_neg fun clear => ?_
    obtain ⟨third, seventh⟩ := (queueMask_eq_zero_iff w).1.mp clear
    simp only [BadQueueWord, third, seventh] at bad
    exact bad.elim nofun nofun
  | second =>
    refine if_neg fun ⟨depthPos, depthMax, thresholdPos, thresholdMax, clear⟩ => ?_
    obtain ⟨low, high⟩ := (queueMask_eq_zero_iff w).2.mp clear
    rcases bad with bad | bad | bad | bad | bad | bad
    · omega
    · omega
    · omega
    · omega
    · exact bad low
    · exact bad high

theorem queueOfWord_good {half : Half} {w : Word} (good : ¬BadQueueWord half w) (x : Queue) :
    queueOfWord x half w = some (configured x half w) := by
  cases half with
  | first =>
    simp only [BadQueueWord, not_or, Bool.not_eq_true] at good
    exact if_pos ((queueMask_eq_zero_iff w).1.mpr good)
  | second =>
    simp only [BadQueueWord, not_or, not_lt, ne_eq, not_not] at good
    obtain ⟨depthPos, depthMax, thresholdPos, thresholdMax, clear⟩ := good
    exact if_pos ⟨Nat.one_le_iff_ne_zero.mpr depthPos, depthMax, Nat.one_le_iff_ne_zero.mpr thresholdPos,
      thresholdMax, (queueMask_eq_zero_iff w).2.mpr clear⟩

/-- Settles O39: the controller's state or the queue's is tested first, then the value (`BadPoolWord`,
`BadQueueWord`). -/
theorem poolAndQueueConfigurationWritten : Obligations.PoolAndQueueConfigurationWritten := by
  intro s w takes
  refine ⟨fun p => ?_, fun q half => ?_⟩
  · have run : exec (.poolDefinition p w) s = .next (configure (0x040 + 4 * p.val) p.val
        (firstRefusal
          [refuseIf (s.controller == .formatting) .busy, refuseIf (s.controller == .running) .wrongState])
        ((poolOfWord (s.pool p) w).map (s.setPool p)) s) := writeAccess_of_takes takes ..
    rw [run]
    refine ⟨fun busy => ?_, fun running => ?_, fun config bad => ?_, fun config good => ?_⟩
    · rw [busy]; rfl
    · rw [running]; rfl
    · rw [config, poolOfWord_bad bad]; rfl
    · obtain ⟨y, written, fields⟩ := poolOfWord_good good (s.pool p)
      rw [config, written]
      exact ⟨y, rfl, fields⟩
  · have run : exec (.queueConfiguration q half w) s = .next (configure (queueConfigurationOffset q half) q.val
        (firstRefusal
          [refuseIf (s.controller == .formatting) .busy, refuseIf ((s.queue q).state != .disabled) .wrongState])
        ((queueOfWord (s.queue q) half w).map (s.setQueue q)) s) := writeAccess_of_takes takes ..
    rw [run]
    dsimp only
    change _ ∧ _ ∧ (_ → _ → BadQueueWord half w → _) ∧ (_ → _ → ¬BadQueueWord half w → _ =
      Host.Outcome.next ((s.setQueue q (configured (s.queue q) half w)).controlAnswer ..))
    refine ⟨fun busy => ?_, fun idle other => ?_, fun idle disabled bad => ?_, fun idle disabled good => ?_⟩
    · rw [busy]; rfl
    · have refused : ((s.queue q).state != .disabled) = true := bne_iff_ne.mpr other
      have passes : (s.controller == .formatting) = false := beq_false_of_ne idle
      rw [refused, passes]; rfl
    · have passes : (s.controller == .formatting) = false := beq_false_of_ne idle
      rw [passes, disabled, queueOfWord_bad bad]; rfl
    · have passes : (s.controller == .formatting) = false := beq_false_of_ne idle
      rw [passes, disabled, queueOfWord_good good]; rfl

end Sys2Proof.Machine

end
